-- ==== Sys2Proof/Word.lean ====
section
/-! DEFINITION. The byte, the only word of palettette CORE (R6, R33). -/

namespace Sys2Proof

/-- A byte: register contents, operand bytes, channel bytes, failure codes (R6, R33). -/
abbrev Byte := BitVec 8

end Sys2Proof
end

