-- ==== Sys2Proof/Config.lean ====
section
/-! DEFINITION. The implementation parameters of R4 whose values the spec leaves open, as one record of plain data.
Every instance carries its own record (a constant field of State), so a claim about all states is a claim about all
assignments. `Config.ref` is the spec's test-only assignment REF (D5). -/

namespace Sys2Proof

/-- What a register holds before its first write (R4 `REG_INIT_POLICY`, R10, D1). -/
inductive RegInit where
  /-- The default: every register holds 0. -/
  | zero
  /-- The strict option: a read of a never-written register is a model fault. -/
  | faultOnUnwrittenRead
  deriving DecidableEq, Repr

/-- The parameters of R4 other than the grid and the input: constant for the lifetime of an instance. -/
structure Params where
  opcHalt : Byte
  opcSetvar : Byte
  opcCalculate : Byte
  opcDeffn : Byte
  opcDeftry : Byte
  opcReturn : Byte
  opcBranch : Byte
  opcThrow : Byte
  opcInput : Byte
  opcOutput : Byte
  opcCall : Byte
  opcNop : Byte
  sel1 : Byte
  sel2 : Byte
  sel3 : Byte
  codeInvalidParameter : Byte
  codeDivideByZero : Byte
  codeInputStreamEmpty : Byte
  codeOutputNonAscii : Byte
  codeFunctionUndefined : Byte
  codeInvalidInstruction : Byte
  codeNoFunctionCalled : Byte
  /-- Optional bound on the call stack's depth (D7); `none` is unbounded. -/
  stackLimit : Option Nat
  regInit : RegInit
  deriving DecidableEq, Repr

/-- The opcode bytes in the source's order (R52). -/
def Params.opcodes (p : Params) : List Byte :=
  [p.opcHalt, p.opcSetvar, p.opcCalculate, p.opcDeffn, p.opcDeftry, p.opcReturn,
   p.opcBranch, p.opcThrow, p.opcInput, p.opcOutput, p.opcCall, p.opcNop]

/-- The SetVar selector bytes (R56). -/
def Params.selectors (p : Params) : List Byte := [p.sel1, p.sel2, p.sel3]

/-- The test-only reference assignment REF (D5), with the defaults of R4 for the two optional parameters.
DESIGN CHOICE, unsafe as a reading of a real image: these are not palettette's byte values (log 1). -/
def Config.ref : Params where
  opcHalt := 0x10
  opcSetvar := 0x20
  opcCalculate := 0x30
  opcDeffn := 0x40
  opcDeftry := 0x50
  opcReturn := 0x60
  opcBranch := 0x70
  opcThrow := 0x80
  opcInput := 0x90
  opcOutput := 0xA0
  opcCall := 0xB0
  opcNop := 0xC0
  sel1 := 1
  sel2 := 2
  sel3 := 3
  codeInvalidParameter := 0
  codeDivideByZero := 1
  codeInputStreamEmpty := 2
  codeOutputNonAscii := 3
  codeFunctionUndefined := 4
  codeInvalidInstruction := 5
  codeNoFunctionCalled := 6
  stackLimit := none
  regInit := .zero

end Sys2Proof
end

