-- ==== Sys2Proof/Syntax.lean ====
section
/-! DEFINITION. The instructions (R52, R54), the grid cell that encodes one (R50) and the names of a cell's channels. -/

namespace Sys2Proof

/-- One grid cell, the triple `(r, g, b)` (R22, R50). -/
structure Pixel where
  r : Byte
  g : Byte
  b : Byte
  deriving DecidableEq, Repr

/-- Channels are numbered 1 (`r`), 2 (`g`), 3 (`b`) (R6, C2). -/
inductive Channel where
  | ch1
  | ch2
  | ch3
  deriving DecidableEq, Repr

/-- Calculate's operators, `g[7:5]` = 1, 2, 3, 4 (R55). -/
inductive CalcOp where
  | add
  | sub
  | mul
  | div
  deriving DecidableEq, Repr

/-- One constructor per row of the opcode table. The arguments are the operand bytes R54 gives a role, in the order
`g` then `b`; a byte it marks as ignored is no argument (R53, R58). -/
inductive Instr where
  /-- `HALT` (R100) -/
  | halt
  /-- `SETVAR g b`: selector, destination register (R80) -/
  | setvar (g b : Byte)
  /-- `CALC g b`: operator and channel, destination register (R81) -/
  | calculate (g b : Byte)
  /-- `DEFFN g b`: parameter register, slot (R90) -/
  | deffn (g b : Byte)
  /-- `DEFTRY b`: destination register (R110) -/
  | deftry (b : Byte)
  /-- `RET` (R92) -/
  | ret
  /-- `BRANCH g b`: the two registers compared (R101) -/
  | branch (g b : Byte)
  /-- `THROW g`: register that holds the code (R111) -/
  | throw (g : Byte)
  /-- `IN b`: destination register (R120) -/
  | input (b : Byte)
  /-- `OUT b`: source register (R121) -/
  | output (b : Byte)
  /-- `CALL g b`: argument register, slot (R91) -/
  | call (g b : Byte)
  /-- `NOP` (R102) -/
  | nop
  deriving DecidableEq, Repr

end Sys2Proof
end

