-- ==== Sys2Proof/Decode.lean ====
section
/-! DEFINITION. The decoder (R53), total on every byte triple, the encoder (R61), and the 24-bit packing that
`opcode_table.json` uses (R51, D10). -/

namespace Sys2Proof

/-- What a cell decodes to: one of the twelve instructions, or `INVALID` (R53). -/
inductive Decoded where
  | instruction (i : Instr)
  /-- `r` matches no opcode; executing the cell raises `InvalidInstruction` (R76). -/
  | invalid
  deriving DecidableEq, Repr

/-- R53: decoding looks at `r` alone. -/
def decode (p : Params) (c : Pixel) : Decoded :=
  if c.r = p.opcHalt then .instruction .halt
  else if c.r = p.opcSetvar then .instruction (.setvar c.g c.b)
  else if c.r = p.opcCalculate then .instruction (.calculate c.g c.b)
  else if c.r = p.opcDeffn then .instruction (.deffn c.g c.b)
  else if c.r = p.opcDeftry then .instruction (.deftry c.b)
  else if c.r = p.opcReturn then .instruction .ret
  else if c.r = p.opcBranch then .instruction (.branch c.g c.b)
  else if c.r = p.opcThrow then .instruction (.throw c.g)
  else if c.r = p.opcInput then .instruction (.input c.b)
  else if c.r = p.opcOutput then .instruction (.output c.b)
  else if c.r = p.opcCall then .instruction (.call c.g c.b)
  else if c.r = p.opcNop then .instruction .nop
  else .invalid

/-- R61: the cell of an instruction; an assembler writes 0 into every ignored byte. -/
def encode (p : Params) : Instr → Pixel
  | .halt => ⟨p.opcHalt, 0, 0⟩
  | .setvar g b => ⟨p.opcSetvar, g, b⟩
  | .calculate g b => ⟨p.opcCalculate, g, b⟩
  | .deffn g b => ⟨p.opcDeffn, g, b⟩
  | .deftry b => ⟨p.opcDeftry, 0, b⟩
  | .ret => ⟨p.opcReturn, 0, 0⟩
  | .branch g b => ⟨p.opcBranch, g, b⟩
  | .throw g => ⟨p.opcThrow, g, 0⟩
  | .input b => ⟨p.opcInput, 0, b⟩
  | .output b => ⟨p.opcOutput, 0, b⟩
  | .call g b => ⟨p.opcCall, g, b⟩
  | .nop => ⟨p.opcNop, 0, 0⟩

/-- R51: the number the table writes a cell as. Notation of the table only. -/
def packPixel (c : Pixel) : Nat := c.r.toNat * 65536 + c.g.toNat * 256 + c.b.toNat

/-- R51: `w[23:16] = r`, `w[15:8] = g`, `w[7:0] = b`. -/
def unpackPixel (w : Nat) : Pixel :=
  ⟨BitVec.ofNat 8 (w / 65536), BitVec.ofNat 8 (w / 256), BitVec.ofNat 8 w⟩

/-- The instruction that the decoder reads from a table word, under the REF assignment (D5, log 1). A word has the
low `nbits` bits of `w`; one that needs more than a cell's 24 bits is no instruction (log 14). -/
def decodeTableWord (nbits w : Nat) : Option Instr :=
  if w % 2 ^ nbits < 2 ^ 24 then
    match decode Config.ref (unpackPixel (w % 2 ^ nbits)) with
    | .instruction i => some i
    | .invalid => none
  else none

end Sys2Proof
end

