-- ==== Sys2Proof/Machine/State.lean ====
section
/-! DEFINITION. The state of one machine instance as plain data (10_state.md), why a step can stop, and the state
after reset. -/

namespace Sys2Proof.Machine

/-- A Location: a pair of grid coordinates (R13, R24). -/
structure Loc where
  x : Nat
  y : Nat
  deriving DecidableEq, Repr

/-- The four unit vectors a cursor can travel along (R14); `y` grows downward in these names only. -/
inductive Dir where
  /-- `(1,0)` -/
  | east
  /-- `(0,1)` -/
  | south
  /-- `(-1,0)` -/
  | west
  /-- `(0,-1)` -/
  | north
  deriving DecidableEq, Repr

/-- The run state (R20). -/
inductive Mode where
  | idle
  | running
  | halted
  | failed
  deriving DecidableEq, Repr

/-- A bound function slot: the DefineFunction's Location and the parameter register (R15). -/
structure FnSlot where
  loc : Loc
  var : Byte
  deriving DecidableEq, Repr

/-- A pending try-handler: the DefineTry's Location and the register that gets the code (R16). -/
structure TryHandler where
  loc : Loc
  dest : Byte
  deriving DecidableEq, Repr

/-- The program store as a list of (address, byte) pairs: addresses strictly rising, no byte equal to 0, which is
what an unlisted address reads as. The byte of channel `k+1` of cell `(x, y)` has the address `3 * (y * W + x) + k`
(DESIGN CHOICE, a representation: log 6). -/
abbrev Memory := List Host.Cell

/-- Everything the spec gives one instance. The first six fields are its construction data, constant for its
lifetime (R4, R18, R22); the rest is what `reset()` resets (R150). -/
structure State where
  /-- `OPC_*`, `SEL_*`, `CODE_*`, `STACK_LIMIT`, `REG_INIT_POLICY` (R4) -/
  params : Params
  /-- `W` (R4) -/
  width : Nat
  /-- `H` (R4) -/
  height : Nat
  /-- `GRID` (R22) -/
  mem : Memory
  /-- `INPUT` (R18) -/
  input : List Byte
  /-- `x[0]` .. `x[255]` (R10) -/
  regs : Vector Byte 256
  /-- which registers have been written since reset (R10); read only under `faultOnUnwrittenRead` -/
  written : Vector Bool 256
  /-- the cursor Location (R13) -/
  pc : Loc
  /-- the direction of travel (R14) -/
  dir : Dir
  /-- `fn[0]` .. `fn[255]` (R15) -/
  fns : Vector (Option FnSlot) 256
  /-- `try` (R16) -/
  tryLatch : Option TryHandler
  /-- the call stack (R17), its top first -/
  stack : List Loc
  /-- the input cursor (R18) -/
  icur : Nat
  /-- the output buffer (R19), oldest byte first -/
  out : List Byte
  /-- the run state (R20) -/
  mode : Mode
  /-- the fault status (R21) -/
  fault : Option Byte
  deriving DecidableEq, Repr

/-- Why a step has no outcome. None of these is a palettette failure (those are taken, R131). -/
inductive Fault where
  /-- A read of a never-written register under `faultOnUnwrittenRead`; raised by CALC, BRANCH, THROW, OUT and CALL.
  R10 says of such a step "it has no outcome at all" (also D1 and 93_implementation_defined.md). Never under the default
  policy `zero`, nor from `State.reset`. Safe: the model stops where a machine that starts at 0 goes on. -/
  | unwrittenRead (r : Byte)
  /-- A Call that would push past a `STACK_LIMIT` that is set; raised by CALL. The spec asks for it (D7: stuck).
  Safe. -/
  | stackExhausted
  /-- A fetch from a grid with no cell; raised by the fetch. No instance that `construct` builds has such a grid
  (R4, D8). Safe. -/
  | emptyGrid
  deriving DecidableEq, Repr

/-- Why the model gives no meaning. -/
inductive Refusal where
  /-- An instruction that exec rejects by name. No arm does. Safe. -/
  | notModelled (mnemonic : String)
  /-- `construct` with `W = 0` or `H = 0` (R152, D8). Safe. -/
  | badDimensions
  /-- `construct` with an input element above 255 (R152, D6). Safe. -/
  | inputNotBytes
  /-- `construct` with parameters that break a constraint of R4. DESIGN CHOICE (log 11). Safe. -/
  | badParameters
  deriving DecidableEq, Repr

/-- The reset state of an instance with the given construction data (R150, R152): registers 0 (D1, log 2), `pc`
at (0,0) (D16, log 3), `dir` (1,0), every table, stack, latch and stream cursor empty, `Idle`, no fault. -/
def State.initial (params : Params) (width height : Nat) (mem : Memory) (input : List Byte) : State where
  params := params
  width := width
  height := height
  mem := mem
  input := input
  regs := Vector.replicate 256 0#8
  written := Vector.replicate 256 false
  pc := ⟨0, 0⟩
  dir := .east
  fns := Vector.replicate 256 none
  tryLatch := none
  stack := []
  icur := 0
  out := []
  mode := .idle
  fault := none

/-- The machine right after reset. The construction data is a DESIGN CHOICE (log 1, log 4): REF, the smallest grid
the spec admits, nothing listed in it, no input. -/
def State.reset : State := State.initial Config.ref 1 1 [] []

end Sys2Proof.Machine
end

