-- ==== Sys2Proof/Machine/Flags.lean ====
section
/-! DEFINITION. The core has no flags (R23): the one condition an instruction tests is the equality of two bytes,
which BRANCH computes directly (R101). -/

namespace Sys2Proof.Machine

/-- R101: the condition of a taken Branch. -/
def branchTaken (a b : Byte) : Bool := a == b

end Sys2Proof.Machine
end

