-- ==== Sys2Proof/Machine/Ops.lean ====
section
/-! DEFINITION. The named operations: bytes of the program store, the address-wrap unit (R31, R32), the accessors of
every register, and taking a failure (R131 to R133) with the end of a step (R74, R75). -/

namespace Sys2Proof.Machine

/-! ### The program store as bytes -/

/-- The byte at an address; an unlisted address reads as 0. -/
def Memory.read : Memory → Nat → Byte
  | [], _ => 0#8
  | (k, v) :: rest, a => if k = a then v else Memory.read rest a

/-- Set the byte at an address, keeping the canonical form. -/
def Memory.write : Memory → Nat → Byte → Memory
  | [], a, v => if v = 0#8 then [] else [(a, v)]
  | (k, w) :: rest, a, v =>
    if a < k then (if v = 0#8 then (k, w) :: rest else (a, v) :: (k, w) :: rest)
    else if a = k then (if v = 0#8 then rest else (a, v) :: rest)
    else (k, w) :: Memory.write rest a v

/-- Addresses at least `lo` and strictly rising, no listed byte 0. -/
def Memory.wfFrom : Nat → Memory → Bool
  | _, [] => true
  | lo, (k, v) :: rest => decide (lo ≤ k) && (v != 0#8) && Memory.wfFrom (k + 1) rest

/-- The canonical form: equal memories are equal lists. -/
def Memory.wf (m : Memory) : Bool := Memory.wfFrom 0 m

/-- Every listed address is below `bound`. -/
def Memory.below (bound : Nat) (m : Memory) : Bool := m.all (fun c => decide (c.1 < bound))

/-- Where the bytes of the cell at `L` start, in a grid `w` cells wide (log 6). -/
def pixelAddr (w : Nat) (L : Loc) : Nat := 3 * (L.y * w + L.x)

/-- `GRID(L.x, L.y)` (R22, R30). -/
def pixelAt (s : State) (L : Loc) : Pixel :=
  ⟨Memory.read s.mem (pixelAddr s.width L), Memory.read s.mem (pixelAddr s.width L + 1),
   Memory.read s.mem (pixelAddr s.width L + 2)⟩

/-- Put a cell into a store; only the loading of a program does so (R30, R152). -/
def storePixel (w : Nat) (m : Memory) (L : Loc) (c : Pixel) : Memory :=
  Memory.write (Memory.write (Memory.write m (pixelAddr w L) c.r) (pixelAddr w L + 1) c.g) (pixelAddr w L + 2) c.b

/-! ### The direction and the address-wrap unit -/

/-- The x component of a unit vector (R14). -/
def Dir.dx : Dir → Int
  | .east => 1
  | .south => 0
  | .west => -1
  | .north => 0

/-- The y component of a unit vector (R14). -/
def Dir.dy : Dir → Int
  | .east => 0
  | .south => 1
  | .west => 0
  | .north => -1

/-- The rotation `(dx, dy) -> (-dy, dx)` (R101). -/
def Dir.rotate : Dir → Dir
  | .east => .south
  | .south => .west
  | .west => .north
  | .north => .east

/-- R31: one coordinate of the cell `k` ahead, `(c + (n + d) * k) mod n`. -/
def wrapCoord (n c : Nat) (d : Int) (k : Nat) : Nat := (((c : Int) + ((n : Int) + d) * (k : Int)) % (n : Int)).toNat

/-- R31: the Location `k` cells ahead of `L` along the current direction. -/
def gridLoc (s : State) (L : Loc) (k : Nat) : Loc :=
  ⟨wrapCoord s.width L.x s.dir.dx k, wrapCoord s.height L.y s.dir.dy k⟩

/-- R31: `GridRead(L, k)`. -/
def gridRead (s : State) (L : Loc) (k : Nat) : Pixel := pixelAt s (gridLoc s L k)

/-- R32: `Next(L)`, the Location that `GridRead(L, 1)` reads. -/
def nextLoc (s : State) (L : Loc) : Loc := gridLoc s L 1

/-- The lookahead operand pixel, `GridRead(pc, 1)` (R50). -/
def lookahead (s : State) : Pixel := gridRead s s.pc 1

/-! ### The registers, tables and streams -/

/-- `x[i]` (R10). -/
def State.reg (s : State) (i : Byte) : Byte := s.regs[i.toNat]'i.isLt

/-- Whether `x[i]` has been written since reset (R10). -/
def State.wasWritten (s : State) (i : Byte) : Bool := s.written[i.toNat]'i.isLt

/-- Whether a read of `x[i]` has an outcome (R10): always under `zero`; under the strict policy, once written. -/
def State.readable (s : State) (i : Byte) : Bool :=
  match s.params.regInit with
  | .zero => true
  | .faultOnUnwrittenRead => s.wasWritten i

/-- `x[i] <- v` (R10, R11). -/
def State.setReg (s : State) (i v : Byte) : State :=
  { s with regs := s.regs.set i.toNat v i.isLt, written := s.written.set i.toNat true i.isLt }

/-- `fn[i]` (R15). -/
def State.fn (s : State) (i : Byte) : Option FnSlot := s.fns[i.toNat]'i.isLt

/-- `fn[i] <- f` (R15, R90). -/
def State.setFn (s : State) (i : Byte) (f : FnSlot) : State := { s with fns := s.fns.set i.toNat (some f) i.isLt }

/-- `try <- h` (R16). -/
def State.setTry (s : State) (h : Option TryHandler) : State := { s with tryLatch := h }

/-- `pc <- L` (R13). -/
def State.setPc (s : State) (L : Loc) : State := { s with pc := L }

/-- `dir <- d` (R14). -/
def State.setDir (s : State) (d : Dir) : State := { s with dir := d }

/-- `push(L)` (R17). -/
def State.push (s : State) (L : Loc) : State := { s with stack := L :: s.stack }

/-- The stack that `pop()` leaves (R17). -/
def State.setStack (s : State) (st : List Loc) : State := { s with stack := st }

/-- Whether one more entry would pass a `STACK_LIMIT` that is set (D7). -/
def State.stackFull (s : State) : Bool :=
  match s.params.stackLimit with
  | none => false
  | some n => decide (n < s.stack.length + 1)

/-- The byte that `InNext()` would return; `none` when not `InAvail()` (R18). -/
def State.inPeek (s : State) : Option Byte := s.input[s.icur]?

/-- `icur <- icur + 1` (R18). -/
def State.bumpInput (s : State) : State := { s with icur := s.icur + 1 }

/-- `OutAppend(c)` (R19). -/
def State.outAppend (s : State) (c : Byte) : State := { s with out := s.out ++ [c] }

/-- `mode <- m` (R20). -/
def State.setMode (s : State) (m : Mode) : State := { s with mode := m }

/-- `fault <- C` (R21). -/
def State.setFault (s : State) (c : Option Byte) : State := { s with fault := c }

/-- `isRunning` (R20, R27). -/
def State.isRunning (s : State) : Bool := s.mode == .running

/-- Read `x[i]` and go on with its value. Under `REG_INIT_POLICY = FaultOnUnwrittenRead` alone, a step that reads a
never-written register has no outcome (R10, D1); under the default every read goes on. -/
def withReg (i : Byte) (s : State) (k : Byte → Host.Outcome State Fault Refusal) : Host.Outcome State Fault Refusal :=
  if s.readable i then k (s.reg i) else .fault (.unwrittenRead i)

/-! ### The end of a step, and taking a failure -/

/-- R74: `pc <- Next(pc)`, with `pc` and `dir` as the instruction left them. -/
def advance (s : State) : State := s.setPc (nextLoc s s.pc)

/-- The outcome `Normal`: the step ends with the advance (R74). -/
def complete (s : State) : Host.Outcome State Fault Refusal := .next (advance s)

/-- R132: recovery of failure `c` by the handler `h`, before the advance. -/
def recover (h : TryHandler) (c : Byte) (s : State) : State := ((s.setPc h.loc).setReg h.dest c).setTry none

/-- R133: a fatal failure of code `c`. -/
def fatal (c : Byte) (s : State) : State := (s.setMode .failed).setFault (some c)

/-- R131: `raise Failure(c)` and the end of the step. A pending handler recovers it and the step advances from the
handler's Location (R132, R74); without one it is fatal and there is no advance (R133, R75). Nothing returns from a
recovery: there is no saved context (R135). -/
def raiseFailure (c : Byte) (s : State) : Host.Outcome State Fault Refusal :=
  match s.tryLatch with
  | some h => complete (recover h c s)
  | none => .next (fatal c s)

end Sys2Proof.Machine
end

