-- ==== Sys2Proof/Machine/Control.lean ====
section
/-! DEFINITION. The control instructions, HALT, BRANCH and NOP (43_control.md), and the effect of a cell that decodes
to no instruction (R76). -/

namespace Sys2Proof.Machine

/-- HALT (R100): `mode <- Halted`; the advance still runs. -/
def execHalt (s : State) : Host.Outcome State Fault Refusal := complete (s.setMode .halted)

/-- BRANCH (R101): rotate the direction when the two registers are equal; the advance uses the new direction. -/
def execBranch (g b : Byte) (s : State) : Host.Outcome State Fault Refusal :=
  withReg g s fun u =>
    withReg b s fun v =>
      complete (if branchTaken u v then s.setDir s.dir.rotate else s)

/-- NOP (R102): only the advance. -/
def execNop (s : State) : Host.Outcome State Fault Refusal := complete s

/-- INVALID (R76): `raise Failure(CODE_INVALID_INSTRUCTION)`. -/
def execInvalid (s : State) : Host.Outcome State Fault Refusal := raiseFailure s.params.codeInvalidInstruction s

end Sys2Proof.Machine
end

