-- ==== Sys2Proof/Machine/Operands.lean ====
section
/-! DEFINITION. The operand forms: channels of a cell, SetVar's selector (R56), Calculate's fields (R55) and its
arithmetic (R82). -/

namespace Sys2Proof.Machine

/-- `t[ch]`: the channel byte of a cell (R6). -/
def channelByte (t : Pixel) : Channel → Byte
  | .ch1 => t.r
  | .ch2 => t.g
  | .ch3 => t.b

/-- R56: the channel a SetVar selector names, `none` for an unmapped byte. -/
def selectorChannel (p : Params) (g : Byte) : Option Channel :=
  if g = p.sel1 then some .ch1
  else if g = p.sel2 then some .ch2
  else if g = p.sel3 then some .ch3
  else none

/-- R55: `g & 0b11`, `none` for the invalid value 0. -/
def calcChannel (g : Byte) : Option Channel :=
  match (g &&& 0b11#8).toNat with
  | 1 => some .ch1
  | 2 => some .ch2
  | 3 => some .ch3
  | _ => none

/-- R55: `g >> 5`, `none` for the invalid values 0, 5, 6, 7. -/
def calcOperator (g : Byte) : Option CalcOp :=
  match (g >>> 5).toNat with
  | 1 => some .add
  | 2 => some .sub
  | 3 => some .mul
  | 4 => some .div
  | _ => none

/-- R81: both fields, `none` if either is invalid. -/
def calcControl (g : Byte) : Option (CalcOp × Channel) :=
  match calcOperator g, calcChannel g with
  | some op, some ch => some (op, ch)
  | _, _ => none

/-- R82: the result of `a op v` as an exact integer narrowed modulo 256; `none` for a division by 0. -/
def calcResult (op : CalcOp) (a v : Byte) : Option Byte :=
  match op with
  | .add => some (BitVec.ofNat 8 (a.toNat + v.toNat))
  | .sub => some (BitVec.ofInt 8 ((a.toNat : Int) - (v.toNat : Int)))
  | .mul => some (BitVec.ofNat 8 (a.toNat * v.toNat))
  | .div => if v = 0#8 then none else some (BitVec.ofNat 8 (a.toNat / v.toNat))

/-- R121: the byte codes OUT accepts, `[32, 126]`. -/
def printable (c : Byte) : Bool := decide (32 ≤ c.toNat) && decide (c.toNat ≤ 126)

end Sys2Proof.Machine
end

