-- ==== Sys2Proof/Machine/Data.lean ====
section
/-! DEFINITION. The data instructions, SETVAR and CALC (41_data.md). -/

namespace Sys2Proof.Machine

/-- SETVAR (R80): `x[b] <- t[ch]` for the channel that `g` selects of the lookahead cell. -/
def execSetvar (g b : Byte) (s : State) : Host.Outcome State Fault Refusal :=
  match selectorChannel s.params g with
  | none => raiseFailure s.params.codeInvalidParameter s
  | some ch => complete (s.setReg b (channelByte (lookahead s) ch))

/-- CALC (R81): `x[b] <- x[b] op channel`. The validity check comes before the register is read, the division check
after it. -/
def execCalc (g b : Byte) (s : State) : Host.Outcome State Fault Refusal :=
  match calcControl g with
  | none => raiseFailure s.params.codeInvalidParameter s
  | some (op, ch) =>
    withReg b s fun a =>
      match calcResult op a (channelByte (lookahead s) ch) with
      | none => raiseFailure s.params.codeDivideByZero s
      | some res => complete (s.setReg b res)

end Sys2Proof.Machine
end

