-- ==== Sys2Proof/Machine/Functions.lean ====
section
/-! DEFINITION. The function instructions, DEFFN, CALL and RET (42_functions.md). -/

namespace Sys2Proof.Machine

/-- DEFFN (R90): `fn[b] <- (loc = pc, var = g)`. -/
def execDeffn (g b : Byte) (s : State) : Host.Outcome State Fault Refusal :=
  complete (s.setFn b ⟨s.pc, g⟩)

/-- CALL (R91): pass `x[g]`, push the Location of this cell, jump to the slot's Location. A push past a `STACK_LIMIT`
that is set has no outcome (D7). -/
def execCall (g b : Byte) (s : State) : Host.Outcome State Fault Refusal :=
  match s.fn b with
  | none => raiseFailure s.params.codeFunctionUndefined s
  | some f =>
    withReg g s fun v =>
      if s.stackFull then .fault .stackExhausted
      else complete (((s.setReg f.var v).push s.pc).setPc f.loc)

/-- RET (R92): `pc <- pop()`. -/
def execRet (s : State) : Host.Outcome State Fault Refusal :=
  match s.stack with
  | [] => raiseFailure s.params.codeNoFunctionCalled s
  | L :: rest => complete ((s.setStack rest).setPc L)

end Sys2Proof.Machine
end

