-- ==== Sys2Proof/Machine/Io.lean ====
section
/-! DEFINITION. The character instructions, IN and OUT (45_io.md). -/

namespace Sys2Proof.Machine

/-- IN (R120): `x[b] <- InNext()`; an exhausted input raises `InputStreamEmpty`. -/
def execInput (b : Byte) (s : State) : Host.Outcome State Fault Refusal :=
  match s.inPeek with
  | none => raiseFailure s.params.codeInputStreamEmpty s
  | some c => complete (s.bumpInput.setReg b c)

/-- OUT (R121): append `x[b]` when it is printable; else raise `OutputNonASCII`. -/
def execOutput (b : Byte) (s : State) : Host.Outcome State Fault Refusal :=
  withReg b s fun c =>
    if printable c then complete (s.outAppend c) else raiseFailure s.params.codeOutputNonAscii s

end Sys2Proof.Machine
end

