-- ==== Sys2Proof/Machine/Try.lean ====
section
/-! DEFINITION. The try-handler instructions, DEFTRY and THROW (44_try.md). -/

namespace Sys2Proof.Machine

/-- DEFTRY (R110): `try <- (loc = pc, dest = b)`, replacing any pending handler. -/
def execDeftry (b : Byte) (s : State) : Host.Outcome State Fault Refusal := complete (s.setTry (some ⟨s.pc, b⟩))

/-- THROW (R111): `raise Failure(x[g])`; the code is read before a recovery writes its register. -/
def execThrow (g : Byte) (s : State) : Host.Outcome State Fault Refusal := withReg g s fun c => raiseFailure c s

end Sys2Proof.Machine
end

