-- ==== Sys2Proof/Machine/Dispatch.lean ====
section
/-! DEFINITION. Execution of one instruction by a running core (R72), the end of its step included (R74, R75). -/

namespace Sys2Proof.Machine

def exec (i : Instr) (s : State) : Host.Outcome State Fault Refusal :=
  match i with
  | .halt => Sys2Proof.Machine.execHalt s
  | .setvar g b => Sys2Proof.Machine.execSetvar g b s
  | .calculate g b => Sys2Proof.Machine.execCalc g b s
  | .deffn g b => Sys2Proof.Machine.execDeffn g b s
  | .deftry b => Sys2Proof.Machine.execDeftry b s
  | .ret => Sys2Proof.Machine.execRet s
  | .branch g b => Sys2Proof.Machine.execBranch g b s
  | .throw g => Sys2Proof.Machine.execThrow g s
  | .input b => Sys2Proof.Machine.execInput b s
  | .output b => Sys2Proof.Machine.execOutput b s
  | .call g b => Sys2Proof.Machine.execCall g b s
  | .nop => Sys2Proof.Machine.execNop s

end Sys2Proof.Machine
end

