-- ==== Sys2Proof/Machine/Fetch.lean ====
section
/-! DEFINITION. Instruction fetch (R71). -/

namespace Sys2Proof.Machine

/-- R71: `GridRead(pc, 0)`. `none` only for a grid with no cell, which no instance has (D8, log 11). -/
def fetch (s : State) : Option Pixel :=
  if s.width = 0 ∨ s.height = 0 then none else some (gridRead s s.pc 0)

/-- The store with a cell put where the next fetch reads. -/
def loadAtFetch (s : State) (c : Pixel) : Memory := storePixel s.width s.mem (gridLoc s s.pc 0) c

end Sys2Proof.Machine
end

