-- ==== Sys2Proof/Machine/Step.lean ====
section
/-! DEFINITION. One `step()` (R70, R77), and how an instruction is placed for the next step to run. -/

namespace Sys2Proof.Machine

/-- R77: nothing unless `Running` (R70); else fetch, decode, and execute with the end of the step. -/
def step (s : State) : Host.Outcome State Fault Refusal :=
  match s.mode with
  | .idle => .next s
  | .halted => .next s
  | .failed => .next s
  | .running =>
    match fetch s with
    | none => .fault .emptyGrid
    | some c =>
      match decode s.params c with
      | .instruction i => exec i s
      | .invalid => execInvalid s

/-- Stands for loading a program and `run()` (log 5): the cell with the table word `w` is put where the next step
fetches, and the core is `Running`. -/
def State.withFetchWord (s : State) (nbits w : Nat) : State :=
  { s with mem := loadAtFetch s (unpackPixel (w % 2 ^ nbits)), mode := .running }

end Sys2Proof.Machine
end

