-- ==== Sys2Proof/WellFormed.lean ====
section
/-! DEFINITION. What the spec requires of the data an instance is built from. An instruction has no check of its own:
every byte is a legal register or slot index (R54) and the operand bytes never make a cell invalid (R53), so every
term of `Instr` is well-formed. The checks are on the parameters (R4) and on the input elements (D6) and grid
dimensions (D8) that `construct` is given. -/

namespace Sys2Proof

/-- R4, R52: the twelve opcode bytes are pairwise distinct. -/
def Params.opcodesDistinct (p : Params) : Bool := decide p.opcodes.Nodup

/-- R4: the three selector bytes are pairwise distinct. -/
def Params.selectorsDistinct (p : Params) : Bool := decide p.selectors.Nodup

/-- R4: a `STACK_LIMIT` that is set is positive. -/
def Params.stackLimitPositive (p : Params) : Bool :=
  match p.stackLimit with
  | none => true
  | some n => decide (0 < n)

/-- R4: the constraints on the parameters. Failure codes need not be distinct. -/
def Params.wf (p : Params) : Bool :=
  p.opcodesDistinct && p.selectorsDistinct && p.stackLimitPositive

/-- R4, D8: a grid has at least one column and one row. -/
def dimensionsOk (w h : Nat) : Bool := decide (1 ≤ w) && decide (1 ≤ h)

/-- D6: every input element is a byte. -/
def inputOk (input : List Nat) : Bool := input.all (fun n => decide (n ≤ 255))

end Sys2Proof
end

