-- ==== Sys2Proof/Machine/Commands.lean ====
section
/-! DEFINITION. The host's commands `construct`, `reset`, `run`, `step` (R27, R150 to R153) and the outputs it
observes (R27). -/

namespace Sys2Proof.Machine

/-- The byte at one address of the store of a `w` by `h` grid with the cells `grid`. -/
def gridByte (w : Nat) (grid : Nat → Nat → Pixel) (a : Nat) : Byte :=
  let c := grid (a / 3 % w) (a / 3 / w)
  match a % 3 with
  | 0 => c.r
  | 1 => c.g
  | _ => c.b

/-- The store that holds the grid a host supplies (R22), in canonical form. -/
def Memory.ofGrid (w h : Nat) (grid : Nat → Nat → Pixel) : Memory :=
  (List.range (3 * (w * h))).filterMap fun a => if gridByte w grid a = 0#8 then none else some (a, gridByte w grid a)

/-- R152: `construct(W, H, GRID, INPUT)` with the parameters of R4: the reset state of the new instance. Dimensions
below 1 (D8) and input elements above 255 (D6) are refused, as the spec chooses. DESIGN CHOICE (log 11), safe: parameters
that break a constraint of R4 are refused too, and the checks come in this order. -/
def construct (p : Params) (w h : Nat) (grid : Nat → Nat → Pixel) (input : List Nat) :
    Host.Outcome State Fault Refusal :=
  if !p.wf then .refused .badParameters
  else if !dimensionsOk w h then .refused .badDimensions
  else if !inputOk input then .refused .inputNotBytes
  else .next (State.initial p w h (Memory.ofGrid w h grid) (input.map (BitVec.ofNat 8)))

/-- R150: `reset()`. Every mutable field at its reset value; the construction data stays. -/
def hostReset (s : State) : State := State.initial s.params s.width s.height s.mem s.input

/-- R151: `run()`: reset, then `Running`. -/
def hostRun (s : State) : State := (hostReset s).setMode .running

/-- What a host does to an instance (R27). -/
inductive Command where
  | reset
  | run
  | step
  deriving DecidableEq, Repr

/-- One transaction (R27, R153). -/
def command : Command → State → Host.Outcome State Fault Refusal
  | .reset, s => .next (hostReset s)
  | .run, s => .next (hostRun s)
  | .step, s => step s

/-- Transactions one after another (R27), up to the first that has no outcome. -/
def commands : List Command → State → Host.Outcome State Fault Refusal
  | [], s => .next s
  | c :: rest, s =>
    match command c s with
    | .next t => commands rest t
    | .fault f => .fault f
    | .refused r => .refused r

/-- The output ports (R27): `isRunning`, `output`, `location`, `fault`. -/
structure Ports where
  isRunning : Bool
  output : List Byte
  location : Loc
  fault : Option Byte
  deriving DecidableEq, Repr

/-- What the host reads between transactions (R27, R44). -/
def ports (s : State) : Ports := ⟨s.isRunning, s.out, s.pc, s.fault⟩

end Sys2Proof.Machine
end

