-- ==== Sys2Proof/Safety.lean ====
section
/-! DEFINITION. What counts as a good state and a good end of a run, in the terms claims use. -/

namespace Sys2Proof.Machine

/-- A Location lies inside the instance's grid (R13). -/
def State.InGrid (s : State) (L : Loc) : Prop := L.x < s.width ∧ L.y < s.height

/-- The invariants of an instance: the constraints on its construction data (R4, R152), the canonical program store,
and what R13, R15 to R21 and R28 say of its mutable state. -/
structure State.Inv (s : State) : Prop where
  params_wf : s.params.wf = true
  width_pos : 0 < s.width
  height_pos : 0 < s.height
  mem_wf : Memory.wf s.mem = true
  mem_below : Memory.below (3 * (s.width * s.height)) s.mem = true
  pc_in : s.InGrid s.pc
  fns_in : ∀ i f, s.fn i = some f → s.InGrid f.loc
  try_in : ∀ h, s.tryLatch = some h → s.InGrid h.loc
  stack_in : ∀ L ∈ s.stack, s.InGrid L
  stack_limit : ∀ n, s.params.stackLimit = some n → s.stack.length ≤ n
  icur_le : s.icur ≤ s.input.length
  out_printable : ∀ c ∈ s.out, 32 ≤ c.toNat ∧ c.toNat ≤ 126
  fault_iff : s.fault.isSome = true ↔ s.mode = .failed

/-- A program has ended normally (R159). -/
def State.endedNormally (s : State) : Prop := s.mode = .halted

/-- A program has ended in a fatal failure; this is never a normal end (R145, R159, D11). -/
def State.endedFailed (s : State) : Prop := s.mode = .failed

/-- The instance uses the defaults of R4 for the two optional parameters. -/
def State.DefaultOptions (s : State) : Prop := s.params.regInit = .zero ∧ s.params.stackLimit = none

end Sys2Proof.Machine
end

