-- ==== Sys2Proof/Certificates/Slice0/Obligations.lean ====
section
/-! DEFINITION. The statements for the provers. They hold for every assignment of the open parameters (R4), since the
parameters are fields of the state they quantify over. -/

namespace Sys2Proof.Claims

open Sys2Proof.Machine

/-- The Location one cell ahead of `L`, as R32 writes it. -/
def aheadLoc (s : State) (L : Loc) : Loc :=
  ⟨(((L.x : Int) + s.width + s.dir.dx) % s.width).toNat, (((L.y : Int) + s.height + s.dir.dy) % s.height).toNat⟩

/-- The lookahead operand pixel: the grid cell one step ahead of the cursor (R31, R50). -/
def aheadPixel (s : State) : Pixel := pixelAt s (aheadLoc s s.pc)

/-- `s` with the cursor advanced and nothing else changed (R74). -/
def advanced (s : State) : State := { s with pc := aheadLoc s s.pc }

/-- `s` with `x[r] <- v` and nothing else changed; `written` is the model's record of the write (R10). -/
def wrote (s : State) (r v : Byte) : State :=
  { s with regs := s.regs.set r.toNat v r.isLt, written := s.written.set r.toNat true r.isLt }

/-- `s` after a failure of code `c` that the handler `h` recovered, at the end of the step (R132). -/
def recovered (s : State) (c : Byte) (h : TryHandler) : State :=
  { s with pc := aheadLoc s h.loc, regs := s.regs.set h.dest.toNat c h.dest.isLt,
           written := s.written.set h.dest.toNat true h.dest.isLt, tryLatch := none }

/-- `s` after a fatal failure of code `c` (R133, D11). -/
def failedWith (s : State) (c : Byte) : State := { s with mode := .failed, fault := some c }

/-- `o` is the end of a step in which a failure of code `c` was raised in `s` (R131). -/
def TakesFailure (s : State) (c : Byte) (o : Host.Outcome State Fault Refusal) : Prop :=
  (∀ h, s.tryLatch = some h → o = .next (recovered s c h)) ∧
  (s.tryLatch = none → o = .next (failedWith s c))

/-- Channel `n` of a cell, `n` in 1..3 (R6). -/
def nthChannel (t : Pixel) : Nat → Byte
  | 1 => t.r
  | 2 => t.g
  | _ => t.b

/-- The call stack has room for one more entry (D7). -/
def HasRoom (s : State) : Prop := ∀ n, s.params.stackLimit = some n → s.stack.length < n

/-- The running core is about to execute `i`: the cell under the cursor decodes to it (R71, R72). -/
def AtInstr (s : State) (i : Instr) : Prop :=
  s.mode = .running ∧ ∃ c, fetch s = some c ∧ decode s.params c = .instruction i

/-- The same state of an instance whose `REG_INIT_POLICY` is `q` (R4). -/
def underPolicy (q : RegInit) (s : State) : State := { s with params := { s.params with regInit := q } }

/-- A cell with the bytes an instruction does not use set to 0 (R54, R58). -/
def usedBytes (i : Instr) (c : Pixel) : Pixel :=
  match i with
  | .halt => ⟨c.r, 0, 0⟩
  | .setvar _ _ => c
  | .calculate _ _ => c
  | .deffn _ _ => c
  | .deftry _ => ⟨c.r, 0, c.b⟩
  | .ret => ⟨c.r, 0, 0⟩
  | .branch _ _ => c
  | .throw _ => ⟨c.r, c.g, 0⟩
  | .input _ => ⟨c.r, 0, c.b⟩
  | .output _ => ⟨c.r, 0, c.b⟩
  | .call _ _ => c
  | .nop => ⟨c.r, 0, 0⟩

/-- The registers an instruction reads (R12). -/
def registersRead : Instr → List Byte
  | .halt => []
  | .setvar _ _ => []
  | .calculate _ b => [b]
  | .deffn _ _ => []
  | .deftry _ => []
  | .ret => []
  | .branch g b => [g, b]
  | .throw g => [g]
  | .input _ => []
  | .output b => [b]
  | .call g _ => [g]
  | .nop => []

/-- Two states that differ at most in register contents. -/
def SameButRegs (s s' : State) : Prop := s' = { s with regs := s'.regs }

/-- Two outcomes of the same kind; two next states differ at most in registers, and in no register `r` for which
`keep r` holds. -/
def SameOutcome (keep : Byte → Prop) : Host.Outcome State Fault Refusal → Host.Outcome State Fault Refusal → Prop
  | .next t, .next t' => SameButRegs t t' ∧ ∀ r, keep r → t.reg r = t'.reg r
  | .fault f, .fault f' => f = f'
  | .refused r, .refused r' => r = r'
  | .next _, .fault _ => False
  | .next _, .refused _ => False
  | .fault _, .next _ => False
  | .fault _, .refused _ => False
  | .refused _, .next _ => False
  | .refused _, .fault _ => False

end Sys2Proof.Claims

open Sys2Proof Sys2Proof.Machine Sys2Proof.Claims

/-! ### Encoding -/

/-- R53, whole: `r` alone selects the opcode, every triple decodes, and no operand byte makes a cell invalid. -/
def Obligations.DecodeSelectsOnOpcodeByteAlone : Prop :=
  ∀ p : Params, p.wf = true →
    (∀ g b : Byte,
      decode p ⟨p.opcHalt, g, b⟩ = .instruction .halt ∧
      decode p ⟨p.opcSetvar, g, b⟩ = .instruction (.setvar g b) ∧
      decode p ⟨p.opcCalculate, g, b⟩ = .instruction (.calculate g b) ∧
      decode p ⟨p.opcDeffn, g, b⟩ = .instruction (.deffn g b) ∧
      decode p ⟨p.opcDeftry, g, b⟩ = .instruction (.deftry b) ∧
      decode p ⟨p.opcReturn, g, b⟩ = .instruction .ret ∧
      decode p ⟨p.opcBranch, g, b⟩ = .instruction (.branch g b) ∧
      decode p ⟨p.opcThrow, g, b⟩ = .instruction (.throw g) ∧
      decode p ⟨p.opcInput, g, b⟩ = .instruction (.input b) ∧
      decode p ⟨p.opcOutput, g, b⟩ = .instruction (.output b) ∧
      decode p ⟨p.opcCall, g, b⟩ = .instruction (.call g b) ∧
      decode p ⟨p.opcNop, g, b⟩ = .instruction .nop) ∧
    (∀ c : Pixel, decode p c = .invalid ↔ c.r ∉ p.opcodes)

/-- Decode and encode agree on every instruction, with every operand byte (R53, R61). -/
def Obligations.DecodeOfEncodeIsTheInstruction : Prop :=
  ∀ p : Params, p.wf = true → ∀ i : Instr, decode p (encode p i) = .instruction i

/-- The other direction: encoding what a cell decodes to gives the cell back, but for the bytes R58 ignores. -/
def Obligations.EncodeOfDecodeKeepsUsedBytes : Prop :=
  ∀ (p : Params) (c : Pixel) (i : Instr), decode p c = .instruction i → encode p i = usedBytes i c

/-- R58 (the spec's own choice D9, log 12): an ignored byte, and Calculate's bits 4..2, change nothing. -/
def Obligations.IgnoredOperandBytesHaveNoEffect : Prop :=
  (∀ p : Params, p.wf = true → ∀ g b g' b' : Byte,
    decode p ⟨p.opcHalt, g, b⟩ = decode p ⟨p.opcHalt, g', b'⟩ ∧
    decode p ⟨p.opcReturn, g, b⟩ = decode p ⟨p.opcReturn, g', b'⟩ ∧
    decode p ⟨p.opcNop, g, b⟩ = decode p ⟨p.opcNop, g', b'⟩ ∧
    decode p ⟨p.opcDeftry, g, b⟩ = decode p ⟨p.opcDeftry, g', b⟩ ∧
    decode p ⟨p.opcInput, g, b⟩ = decode p ⟨p.opcInput, g', b⟩ ∧
    decode p ⟨p.opcOutput, g, b⟩ = decode p ⟨p.opcOutput, g', b⟩ ∧
    decode p ⟨p.opcThrow, g, b⟩ = decode p ⟨p.opcThrow, g, b'⟩) ∧
  (∀ (g g' b : Byte) (s : State), g &&& 0xE3#8 = g' &&& 0xE3#8 →
    exec (.calculate g b) s = exec (.calculate g' b) s)

/-- One word per instruction under the test-only REF (D5), packed by R51 (log 1, log 14). The THROW word is the cell of
the vectors V-T3 to V-T5 (95_test_vectors.md section 2.7); the other eleven stand in its listings P1 to P5. -/
def Obligations.ListedWordsDecode : Prop :=
  decodeTableWord 24 0x100000 = some .halt ∧ decodeTableWord 24 0x200304 = some (.setvar 3 4) ∧
  decodeTableWord 24 0x306303 = some (.calculate 0x63 3) ∧ decodeTableWord 24 0x400301 = some (.deffn 3 1) ∧
  decodeTableWord 24 0x500009 = some (.deftry 9) ∧ decodeTableWord 24 0x600000 = some .ret ∧
  decodeTableWord 24 0x700102 = some (.branch 1 2) ∧ decodeTableWord 24 0x800500 = some (.throw 5) ∧
  decodeTableWord 24 0x900000 = some (.input 0) ∧ decodeTableWord 24 0xA00003 = some (.output 3) ∧
  decodeTableWord 24 0xB00401 = some (.call 4 1) ∧ decodeTableWord 24 0xC00048 = some .nop

/-! ### The address-wrap unit -/

/-- R31: the two coordinates of `GridRead(L, k)`, always in bounds; `k = 0` is the cell itself; and the cell `k + 1`
ahead is the one ahead of the cell `k` ahead. -/
def Obligations.GridReadWrapsIntoTheGrid : Prop :=
  ∀ s : State, 0 < s.width → 0 < s.height → ∀ (L : Loc) (k : Nat),
    gridRead s L k = pixelAt s (gridLoc s L k) ∧
    ((gridLoc s L k).x : Int) = ((L.x : Int) + ((s.width : Int) + s.dir.dx) * k) % s.width ∧
    ((gridLoc s L k).y : Int) = ((L.y : Int) + ((s.height : Int) + s.dir.dy) * k) % s.height ∧
    s.InGrid (gridLoc s L k) ∧
    (s.InGrid L → gridLoc s L 0 = L) ∧
    gridLoc s L (k + 1) = gridLoc s (gridLoc s L k) 1

/-- R32 (an inference the spec draws from R31): `Next`, and its six examples at the edges of the torus. -/
def Obligations.NextWrapsAtTheEdges : Prop :=
  ∀ s : State, 0 < s.width → 0 < s.height →
    (∀ L, nextLoc s L = aheadLoc s L) ∧
    (s.dir = .east → ∀ y, y < s.height → nextLoc s ⟨s.width - 1, y⟩ = ⟨0, y⟩) ∧
    (s.dir = .west → ∀ y, y < s.height → nextLoc s ⟨0, y⟩ = ⟨s.width - 1, y⟩) ∧
    (s.dir = .south → ∀ x, x < s.width → nextLoc s ⟨x, s.height - 1⟩ = ⟨x, 0⟩) ∧
    (s.dir = .north → ∀ x, x < s.width → nextLoc s ⟨x, 0⟩ = ⟨x, s.height - 1⟩) ∧
    (s.width = 1 → s.dir = .east ∨ s.dir = .west → ∀ y, y < s.height → nextLoc s ⟨0, y⟩ = ⟨0, y⟩) ∧
    (s.height = 1 → s.dir = .south ∨ s.dir = .north → ∀ x, x < s.width → nextLoc s ⟨x, 0⟩ = ⟨x, 0⟩)

/-! ### The step cycle -/

/-- R70: a step of a core that is not running changes nothing. -/
def Obligations.StepDoesNothingUnlessRunning : Prop :=
  ∀ s : State, s.mode ≠ .running → step s = .next s

/-- R144, R159: any number of steps leaves an idle, halted or failed core as it is. -/
def Obligations.NonRunningCoreStaysAsItIs : Prop :=
  ∀ (n : Nat) (s : State), s.mode ≠ .running → Host.Core.run Sys2Proof.core n s = .next s

/-- R71, R72, R77: a running core's step is the execution of the instruction that the cell under the cursor decodes
to. `exec` contains the end of the step (R74, R75), so `step` adds nothing around it. -/
def Obligations.StepRunsTheDecodedInstruction : Prop :=
  ∀ (s : State) (i : Instr), s.mode = .running → s.InGrid s.pc →
    decode s.params (pixelAt s s.pc) = .instruction i → step s = exec i s

/-- R76: a cell whose `r` is no opcode raises InvalidInstruction. -/
def Obligations.InvalidCellRaisesInvalidInstruction : Prop :=
  ∀ s : State, s.mode = .running → s.InGrid s.pc → (pixelAt s s.pc).r ∉ s.params.opcodes →
    TakesFailure s s.params.codeInvalidInstruction (step s)

/-- The model's way of placing an instruction (log 5): the next step runs exactly the word that was placed. -/
def Obligations.PlacedWordIsTheNextInstruction : Prop :=
  ∀ (s : State) (nbits w : Nat) (i : Instr), 0 < s.width → 0 < s.height → Memory.wf s.mem = true →
    decode s.params (unpackPixel (w % 2 ^ nbits)) = .instruction i →
    step (s.withFetchWord nbits w) = exec i (s.withFetchWord nbits w)

/-! ### Failures -/

/-- R132, whole: recovery moves the cursor to the handler's Location, writes the code, clears the latch, then the step
advances along the current direction; nothing else changes. -/
def Obligations.RecoveryJumpsWritesAndDisarms : Prop :=
  ∀ (s : State) (c : Byte) (h : TryHandler), s.tryLatch = some h →
    raiseFailure c s = .next (recovered s c h)

/-- R133, R75 (the state `Failed` is the spec's own choice D11, log 7): a fatal failure changes only `mode` and
`fault`. -/
def Obligations.FatalFailureChangesOnlyModeAndFault : Prop :=
  ∀ (s : State) (c : Byte), s.tryLatch = none → raiseFailure c s = .next (failedWith s c)

/-- R135: the handler is single-shot; a second failure with no new handler is fatal. -/
def Obligations.HandlerIsSingleShot : Prop :=
  ∀ (s : State) (c : Byte) (h : TryHandler), s.tryLatch = some h →
    ∃ t, raiseFailure c s = .next t ∧ t.tryLatch = none ∧
      ∀ u : State, u.tryLatch = t.tryLatch → ∀ c', raiseFailure c' u = .next (failedWith u c')

/-- R134: a Throw of a built-in code cannot be told apart from the built-in failure. -/
def Obligations.ThrowIsLikeTheBuiltInFailure : Prop :=
  ∀ (s : State) (g b r : Byte), s.readable r = true → s.readable b = true →
    (s.reg r = s.params.codeInvalidParameter → g ∉ s.params.selectors →
      exec (.throw r) s = exec (.setvar g b) s) ∧
    (s.reg r = s.params.codeDivideByZero → g.toNat / 32 = 4 → g.toNat % 4 ≠ 0 →
      nthChannel (aheadPixel s) (g.toNat % 4) = 0 → exec (.throw r) s = exec (.calculate g b) s) ∧
    (s.reg r = s.params.codeInputStreamEmpty → s.input.length ≤ s.icur →
      exec (.throw r) s = exec (.input b) s) ∧
    (s.reg r = s.params.codeOutputNonAscii → (s.reg b).toNat < 32 ∨ 126 < (s.reg b).toNat →
      exec (.throw r) s = exec (.output b) s) ∧
    (s.reg r = s.params.codeFunctionUndefined → s.fn b = none → exec (.throw r) s = exec (.call g b) s) ∧
    (s.reg r = s.params.codeInvalidInstruction → exec (.throw r) s = execInvalid s) ∧
    (s.reg r = s.params.codeNoFunctionCalled → s.stack = [] → exec (.throw r) s = exec .ret s)

/-! ### The instructions. Each result is the whole next state, so it is the instruction's frame as well. -/

/-- R80, whole. -/
def Obligations.SetvarCopiesLookaheadChannel : Prop :=
  ∀ (s : State) (g b : Byte), s.params.wf = true →
    decode s.params ⟨s.params.opcSetvar, g, b⟩ = .instruction (.setvar g b) ∧
    (g = s.params.sel1 → exec (.setvar g b) s = .next (advanced (wrote s b (aheadPixel s).r))) ∧
    (g = s.params.sel2 → exec (.setvar g b) s = .next (advanced (wrote s b (aheadPixel s).g))) ∧
    (g = s.params.sel3 → exec (.setvar g b) s = .next (advanced (wrote s b (aheadPixel s).b))) ∧
    (g ∉ s.params.selectors → TakesFailure s s.params.codeInvalidParameter (exec (.setvar g b) s))

/-- R81 with the results of R82, whole. A register that the strict option forbids to read is in
`UnwrittenReadStopsUnderStrictPolicy`. -/
def Obligations.CalculateComputesModulo256 : Prop :=
  ∀ (s : State) (g b : Byte), s.params.wf = true →
    let ch := g.toNat % 4
    let op := g.toNat / 32
    let v := (nthChannel (aheadPixel s) ch).toNat
    let a := (s.reg b).toNat
    decode s.params ⟨s.params.opcCalculate, g, b⟩ = .instruction (.calculate g b) ∧
    (ch = 0 ∨ op = 0 ∨ 5 ≤ op → TakesFailure s s.params.codeInvalidParameter (exec (.calculate g b) s)) ∧
    (s.readable b = true → ch ≠ 0 →
      (op = 1 → exec (.calculate g b) s = .next (advanced (wrote s b (BitVec.ofNat 8 ((a + v) % 256))))) ∧
      (op = 2 → exec (.calculate g b) s = .next (advanced (wrote s b (BitVec.ofNat 8 ((a + 256 - v) % 256))))) ∧
      (op = 3 → exec (.calculate g b) s = .next (advanced (wrote s b (BitVec.ofNat 8 (a * v % 256))))) ∧
      (op = 4 → v ≠ 0 → exec (.calculate g b) s = .next (advanced (wrote s b (BitVec.ofNat 8 (a / v))))) ∧
      (op = 4 → v = 0 → TakesFailure s s.params.codeDivideByZero (exec (.calculate g b) s)))

/-- R90: the slot is bound to this cell's Location and the parameter register; every other slot is kept. -/
def Obligations.DeffnBindsTheSlot : Prop :=
  ∀ (s : State) (g b : Byte), s.params.wf = true →
    decode s.params ⟨s.params.opcDeffn, g, b⟩ = .instruction (.deffn g b) ∧
    ∃ t, exec (.deffn g b) s = .next t ∧
      t = advanced { s with fns := s.fns.set b.toNat (some ⟨s.pc, g⟩) b.isLt } ∧
      t.fn b = some ⟨s.pc, g⟩ ∧ ∀ j, j ≠ b → t.fn j = s.fn j

/-- R91, whole, with room on the stack (`CallPastStackLimitStops` is the other case). -/
def Obligations.CallPassesPushesAndJumps : Prop :=
  ∀ (s : State) (g b : Byte), s.params.wf = true →
    decode s.params ⟨s.params.opcCall, g, b⟩ = .instruction (.call g b) ∧
    (s.fn b = none → TakesFailure s s.params.codeFunctionUndefined (exec (.call g b) s)) ∧
    (∀ f, s.fn b = some f → s.readable g = true → HasRoom s →
      exec (.call g b) s =
        .next { wrote s f.var (s.reg g) with stack := s.pc :: s.stack, pc := aheadLoc s f.loc })

/-- D7 (log 8): a Call past a `STACK_LIMIT` that is set has no step. -/
def Obligations.CallPastStackLimitStops : Prop :=
  ∀ (s : State) (g b : Byte) (f : FnSlot) (n : Nat), s.fn b = some f → s.readable g = true →
    s.params.stackLimit = some n → n ≤ s.stack.length → exec (.call g b) s = .fault .stackExhausted

/-- R92: the top of the stack becomes the cursor, then the advance; the direction is not restored. -/
def Obligations.ReturnPopsTheStack : Prop :=
  ∀ (s : State) (g b : Byte), s.params.wf = true →
    decode s.params ⟨s.params.opcReturn, g, b⟩ = .instruction .ret ∧
    (s.stack = [] → TakesFailure s s.params.codeNoFunctionCalled (exec .ret s)) ∧
    (∀ L rest, s.stack = L :: rest → exec .ret s = .next { s with stack := rest, pc := aheadLoc s L })

/-- R100, whole: Halt stops the core, the advance still runs, and later steps do nothing. -/
def Obligations.HaltStopsAfterTheAdvance : Prop :=
  ∀ (s : State) (g b : Byte), s.params.wf = true →
    decode s.params ⟨s.params.opcHalt, g, b⟩ = .instruction .halt ∧
    exec .halt s = .next { advanced s with mode := .halted } ∧
    step { advanced s with mode := .halted } = .next { advanced s with mode := .halted }

/-- R101: equal registers rotate the direction by `(dx, dy) -> (-dy, dx)` and the advance uses the new direction;
different ones change nothing. -/
def Obligations.BranchRotatesOnEqualRegisters : Prop :=
  ∀ (s : State) (g b : Byte), s.params.wf = true →
    decode s.params ⟨s.params.opcBranch, g, b⟩ = .instruction (.branch g b) ∧
    (s.readable g = true → s.readable b = true →
      (s.reg g = s.reg b → ∃ d : Dir, d.dx = -s.dir.dy ∧ d.dy = s.dir.dx ∧
        exec (.branch g b) s = .next (advanced { s with dir := d })) ∧
      (s.reg g ≠ s.reg b → exec (.branch g b) s = .next (advanced s)))

/-- R102, whole. -/
def Obligations.NopOnlyAdvances : Prop :=
  ∀ (s : State) (g b : Byte), s.params.wf = true →
    decode s.params ⟨s.params.opcNop, g, b⟩ = .instruction .nop ∧ exec .nop s = .next (advanced s)

/-- R110: the latch is armed with this cell's Location and the register; any pending handler is replaced. -/
def Obligations.DeftryArmsTheLatch : Prop :=
  ∀ (s : State) (g b : Byte), s.params.wf = true →
    decode s.params ⟨s.params.opcDeftry, g, b⟩ = .instruction (.deftry b) ∧
    exec (.deftry b) s = .next (advanced { s with tryLatch := some ⟨s.pc, b⟩ })

/-- R111, whole: Throw raises the register's value, read before a recovery writes its register. -/
def Obligations.ThrowRaisesTheRegister : Prop :=
  ∀ (s : State) (g b : Byte), s.params.wf = true →
    decode s.params ⟨s.params.opcThrow, g, b⟩ = .instruction (.throw g) ∧
    (s.readable g = true → TakesFailure s (s.reg g) (exec (.throw g) s))

/-- R120: the next input byte goes to the register and the cursor moves; an exhausted input raises a failure. -/
def Obligations.InputReadsTheNextByte : Prop :=
  ∀ (s : State) (g b : Byte), s.params.wf = true →
    decode s.params ⟨s.params.opcInput, g, b⟩ = .instruction (.input b) ∧
    (∀ h : s.icur < s.input.length,
      exec (.input b) s = .next (advanced (wrote { s with icur := s.icur + 1 } b s.input[s.icur]))) ∧
    (s.input.length ≤ s.icur → TakesFailure s s.params.codeInputStreamEmpty (exec (.input b) s))

/-- R121, whole: printable codes are appended, any other code raises a failure. -/
def Obligations.OutputAppendsPrintableBytes : Prop :=
  ∀ (s : State) (g b : Byte), s.params.wf = true →
    decode s.params ⟨s.params.opcOutput, g, b⟩ = .instruction (.output b) ∧
    (s.readable b = true →
      (32 ≤ (s.reg b).toNat → (s.reg b).toNat ≤ 126 →
        exec (.output b) s = .next (advanced { s with out := s.out ++ [s.reg b] })) ∧
      ((s.reg b).toNat < 32 ∨ 126 < (s.reg b).toNat →
        TakesFailure s s.params.codeOutputNonAscii (exec (.output b) s)))

/-- R10's strict option (the spec's own, D1, log 9): a read of a never-written register has no outcome. Never under the
default policy: there every read answers the register's value (`EveryStepHasANextState`). -/
def Obligations.UnwrittenReadStopsUnderStrictPolicy : Prop :=
  ∀ (s : State) (r g b : Byte), s.params.regInit = .faultOnUnwrittenRead → s.wasWritten r = false →
    exec (.throw r) s = .fault (.unwrittenRead r) ∧
    exec (.output r) s = .fault (.unwrittenRead r) ∧
    exec (.branch r b) s = .fault (.unwrittenRead r) ∧
    (s.wasWritten g = true → exec (.branch g r) s = .fault (.unwrittenRead r)) ∧
    (s.fn b ≠ none → exec (.call r b) s = .fault (.unwrittenRead r)) ∧
    (g.toNat % 4 ≠ 0 → 1 ≤ g.toNat / 32 → g.toNat / 32 ≤ 4 →
      exec (.calculate g r) s = .fault (.unwrittenRead r))

/-- R93: a Call passes the argument and jumps; a Return that finds the stack as the Call left it comes back to the
cell after the Call, in the direction current then. -/
def Obligations.CallThenReturnComesBack : Prop :=
  ∀ (s : State) (g b : Byte) (f : FnSlot), s.fn b = some f → s.readable g = true → HasRoom s →
    ∃ t, exec (.call g b) s = .next t ∧ t.reg f.var = s.reg g ∧ t.pc = aheadLoc s f.loc ∧
      ∀ u : State, u.stack = t.stack → ∃ v, exec .ret u = .next v ∧ v.stack = s.stack ∧
        v.pc = aheadLoc u s.pc ∧
        (u.width = s.width → u.height = s.height → u.dir = s.dir → v.pc = aheadLoc s s.pc)

/-! ### Whole-machine rules: what a step can change, and when -/

/-- R11, whole: exactly these writes change a register; `reset()` and `run()` put each at its reset value. -/
def Obligations.RegistersChangeOnlyByListedWrites : Prop :=
  (∀ (s t : State) (r : Byte), step s = .next t → t.reg r ≠ s.reg r →
    (∃ g, AtInstr s (.setvar g r)) ∨ (∃ g, AtInstr s (.calculate g r)) ∨ AtInstr s (.input r) ∨
    (∃ g b f, AtInstr s (.call g b) ∧ s.fn b = some f ∧ f.var = r) ∨
    (∃ h, s.tryLatch = some h ∧ h.dest = r ∧ t = recovered s (t.reg r) h)) ∧
  (∀ (s : State) (r : Byte), (hostReset s).reg r = State.reset.reg r ∧ (hostRun s).reg r = State.reset.reg r)

/-- R12, whole: a step depends on a register's value only through the instruction that reads it. Two states that differ
in registers the instruction does not read have outcomes that differ in registers only, and in no register that was
the same before. -/
def Obligations.RegistersAreReadOnlyAsListed : Prop :=
  ∀ s s' : State, SameButRegs s s' →
    (∀ i, AtInstr s i → ∀ r ∈ registersRead i, s.reg r = s'.reg r) →
    SameOutcome (fun r => s.reg r = s'.reg r) (step s) (step s')

/-- R14: only a taken Branch changes the direction in a step. -/
def Obligations.OnlyATakenBranchTurns : Prop :=
  ∀ s t : State, step s = .next t → t.dir ≠ s.dir →
    ∃ g b, AtInstr s (.branch g b) ∧ s.reg g = s.reg b ∧ t.dir.dx = -s.dir.dy ∧ t.dir.dy = s.dir.dx

/-- R15: only DefineFunction changes a slot in a step, and no step unbinds one. -/
def Obligations.OnlyDefineFunctionBindsSlots : Prop :=
  ∀ (s t : State) (j : Byte), step s = .next t → t.fn j ≠ s.fn j →
    ∃ g, AtInstr s (.deffn g j) ∧ t.fn j = some ⟨s.pc, g⟩

/-- R16: only DefineTry sets the latch and only a recovery clears it. -/
def Obligations.OnlyDefineTryArmsAndRecoveryDisarms : Prop :=
  ∀ s t : State, step s = .next t → t.tryLatch ≠ s.tryLatch →
    (∃ b, AtInstr s (.deftry b) ∧ t.tryLatch = some ⟨s.pc, b⟩) ∨
    (∃ h c, s.tryLatch = some h ∧ t = recovered s c h)

/-- R17: only Call pushes, only Return pops. -/
def Obligations.OnlyCallPushesAndReturnPops : Prop :=
  ∀ s t : State, step s = .next t → t.stack ≠ s.stack →
    (∃ g b, AtInstr s (.call g b) ∧ t.stack = s.pc :: s.stack) ∨
    (∃ L, AtInstr s .ret ∧ s.stack = L :: t.stack)

/-- R18: the input cursor stays, or an Input moves it by one and delivers the byte it passed. -/
def Obligations.InputCursorMovesOnlyByInput : Prop :=
  ∀ s t : State, step s = .next t → t.icur = s.icur ∨
    ∃ b, ∃ h : s.icur < s.input.length, AtInstr s (.input b) ∧ t.icur = s.icur + 1 ∧ t.reg b = s.input[s.icur]

/-- R19, whole: the output buffer stays, or an Output appends one printable byte, the register's; only `reset()` and
`run()` empty it. -/
def Obligations.OutputBufferIsAppendOnly : Prop :=
  (∀ s t : State, step s = .next t → t.out = s.out ∨
    ∃ b, AtInstr s (.output b) ∧ t.out = s.out ++ [s.reg b] ∧ 32 ≤ (s.reg b).toNat ∧ (s.reg b).toNat ≤ 126) ∧
  (∀ s : State, (hostReset s).out = [] ∧ (hostRun s).out = [])

/-- R13, R74, R75: a step of a running core ends fatally with the cursor where it was, or one cell ahead (along the
direction it ends with) of where the instruction left the cursor; only Call, Return and a recovery move it before. -/
def Obligations.CursorMovesByExactlyOneAdvance : Prop :=
  ∀ s t : State, step s = .next t → s.mode = .running →
    (t.mode = .failed ∧ t.pc = s.pc) ∨
    (t.mode ≠ .failed ∧ ∃ L, t.pc = aheadLoc t L ∧
      (L = s.pc ∨ (∃ g b f, AtInstr s (.call g b) ∧ s.fn b = some f ∧ L = f.loc) ∨
       (AtInstr s .ret ∧ ∃ rest, s.stack = L :: rest) ∨
       (∃ h c, s.tryLatch = some h ∧ L = h.loc ∧ t = recovered s c h)))

/-- R153, R133 (the `Failed` rows are the spec's own choice D11, log 7): the run-state machine. -/
def Obligations.RunStateTransitions : Prop :=
  (∀ s : State, (hostReset s).mode = .idle ∧ (hostRun s).mode = .running) ∧
  (∀ s t : State, step s = .next t → s.mode ≠ .running → t = s) ∧
  (∀ s t : State, step s = .next t → s.mode = .running →
    t.mode ≠ .idle ∧ (t.endedNormally ↔ AtInstr s .halt) ∧
    (t.endedFailed → s.tryLatch = none ∧ ∃ c, t = failedWith s c) ∧
    (¬t.endedFailed → t.fault = s.fault))

/-- R4, R18, R22, R30: no sequence of host commands changes an instance's construction data; every byte of the program
store reads as before. -/
def Obligations.ConstructionDataNeverChanges : Prop :=
  ∀ (cs : List Command) (s t : State), commands cs s = .next t →
    t.params = s.params ∧ t.width = s.width ∧ t.height = s.height ∧ t.input = s.input ∧ t.mem = s.mem ∧
    ∀ a, Memory.read t.mem a = Memory.read s.mem a

/-! ### Reset, run, construct -/

/-- R150 (registers at 0 and `pc` at (0,0) are the spec's own choices D1 and D16, log 2 and log 3). -/
def Obligations.ResetPutsEveryFieldAtItsResetValue : Prop :=
  ∀ s : State,
    (∀ i, (hostReset s).reg i = 0) ∧ (∀ i, (hostReset s).fn i = none) ∧
    (∀ i, (hostReset s).wasWritten i = false) ∧
    (hostReset s).pc = ⟨0, 0⟩ ∧ (hostReset s).dir.dx = 1 ∧ (hostReset s).dir.dy = 0 ∧
    (hostReset s).tryLatch = none ∧ (hostReset s).stack = [] ∧ (hostReset s).icur = 0 ∧ (hostReset s).out = [] ∧
    (hostReset s).mode = .idle ∧ (hostReset s).fault = none ∧
    (hostReset s).params = s.params ∧ (hostReset s).width = s.width ∧ (hostReset s).height = s.height ∧
    (hostReset s).mem = s.mem ∧ (hostReset s).input = s.input

/-- R150, R151: after any sequence of commands `reset()` and `run()` give the same state as at its start; `run()` is
`reset()` and `Running`, and the first fetch reads cell (0,0). -/
def Obligations.RunAndResetForgetTheHistory : Prop :=
  (∀ (cs : List Command) (s t : State), commands cs s = .next t →
    hostReset t = hostReset s ∧ hostRun t = hostRun s) ∧
  (∀ s : State, hostRun s = { hostReset s with mode := .running }) ∧
  (∀ s : State, 0 < s.width → 0 < s.height → fetch (hostRun s) = some (pixelAt s ⟨0, 0⟩))

/-- R152, R22: an instance is built in its reset state, with the grid and the input it was given. -/
def Obligations.ConstructGivesTheSuppliedGrid : Prop :=
  ∀ (p : Params) (w h : Nat) (grid : Nat → Nat → Pixel) (input : List Nat),
    p.wf = true → 1 ≤ w → 1 ≤ h → (∀ n ∈ input, n ≤ 255) →
    ∃ s, construct p w h grid input = .next s ∧ hostReset s = s ∧ s.mode = .idle ∧
      s.params = p ∧ s.width = w ∧ s.height = h ∧ s.input.map BitVec.toNat = input ∧
      ∀ x y, x < w → y < h → pixelAt s ⟨x, y⟩ = grid x y

/-- What `construct` refuses. Refusing an empty grid and a wide input element is the spec's own choice (D8, D6, R152; log
11, log 10). Refusing parameters that break a constraint of R4 is the model's own DESIGN CHOICE (log 11, its second
sentence), and so is the order of the three checks: no rule says either. -/
def Obligations.ConstructRefusesWhatTheSpecExcludes : Prop :=
  ∀ (p : Params) (w h : Nat) (grid : Nat → Nat → Pixel) (input : List Nat),
    (p.wf = false → construct p w h grid input = .refused .badParameters) ∧
    (p.wf = true → w = 0 ∨ h = 0 → construct p w h grid input = .refused .badDimensions) ∧
    (p.wf = true → 1 ≤ w → 1 ≤ h → (∃ n ∈ input, 255 < n) →
      construct p w h grid input = .refused .inputNotBytes)

/-! ### Invariants, and where a step can stop -/

/-- The model's reset state meets the invariant. -/
def Obligations.ResetMeetsTheInvariant : Prop := State.reset.Inv

/-- R28 with R13, R15 to R21: every step keeps the invariant, from every state that has it. -/
def Obligations.EveryStepKeepsTheInvariant : Prop :=
  ∀ s t : State, s.Inv → step s = .next t → t.Inv

/-- R28: the invariant holds after every transaction of every instance. -/
def Obligations.EveryTransactionMeetsTheInvariant : Prop :=
  ∀ (p : Params) (w h : Nat) (grid : Nat → Nat → Pixel) (input : List Nat) (cs : List Command) (s t : State),
    construct p w h grid input = .next s → commands cs s = .next t → t.Inv

/-- R34, R77: under the defaults of R4 every step of an instance has a next state: no cell, operand or address stops
it. -/
def Obligations.EveryStepHasANextState : Prop :=
  ∀ s : State, s.DefaultOptions → 0 < s.width → 0 < s.height → ∃ t, step s = .next t

/-- A step stops only for the reasons R10 and D7 name, or with no grid at all (D8), and never refuses. -/
def Obligations.StepStopsOnlyAsTheSpecSays : Prop :=
  (∀ (s : State) (f : Fault), step s = .fault f →
    (∃ r, f = .unwrittenRead r ∧ s.params.regInit = .faultOnUnwrittenRead ∧ s.wasWritten r = false) ∨
    (f = .stackExhausted ∧ ∃ n, s.params.stackLimit = some n ∧ n ≤ s.stack.length) ∨
    (f = .emptyGrid ∧ (s.width = 0 ∨ s.height = 0))) ∧
  (∀ (s : State) (r : Refusal), step s ≠ .refused r)

/-- D1, "Claims proved under that option hold under the zero choice too": a step that the strict policy lets go on is the
step of the default policy; where the default policy goes on, the strict one goes on alike or the step reads a register
that nothing has written; and the default policy never stops at such a read (log 9). -/
def Obligations.StrictPolicyDiffersOnlyAtUnwrittenReads : Prop :=
  ∀ s : State, s.params.regInit = .faultOnUnwrittenRead →
    (∀ t, step s = .next t → step (underPolicy .zero s) = .next (underPolicy .zero t)) ∧
    (∀ t, step (underPolicy .zero s) = .next t →
      step s = .next (underPolicy .faultOnUnwrittenRead t) ∨
      ∃ r, s.wasWritten r = false ∧ step s = .fault (.unwrittenRead r)) ∧
    ∀ r, step (underPolicy .zero s) ≠ .fault (.unwrittenRead r)
end

