-- ==== Sys2Proof/Laws/Decode.lean ====
section
/-! SUPPORT. What the decoder can answer, said once, and the constraints on the opcode bytes in usable form. -/

namespace Sys2Proof

/-- A well-formed assignment's opcode bytes are pairwise distinct (R4, R52). -/
theorem Params.opcodes_nodup {p : Params} (h : p.wf = true) : p.opcodes.Nodup := by
  simp only [Params.wf, Bool.and_eq_true] at h
  exact of_decide_eq_true h.1.1

theorem Params.selectors_nodup {p : Params} (h : p.wf = true) : p.selectors.Nodup := by
  simp only [Params.wf, Bool.and_eq_true] at h
  exact of_decide_eq_true h.1.2

theorem Params.stackLimit_pos {p : Params} (h : p.wf = true) {n : Nat} (hn : p.stackLimit = some n) : 0 < n := by
  simp only [Params.wf, Bool.and_eq_true, Params.stackLimitPositive, hn] at h
  exact of_decide_eq_true h.2

/-- The encoder writes one of the twelve opcode bytes. -/
theorem encode_r_mem (p : Params) (i : Instr) : (encode p i).r ∈ p.opcodes := by
  cases i <;> simp [encode, Params.opcodes]

/-- R53: a cell that decodes to an instruction has that instruction's opcode byte. -/
theorem decode_opcode {p : Params} {c : Pixel} {i : Instr} (h : decode p c = .instruction i) :
    c.r = (encode p i).r := by
  unfold decode at h
  repeat
    rw [ite_eq_iff] at h
    rcases h with ⟨hr, h⟩ | ⟨-, h⟩
    · cases h
      exact hr
  cases h

/-- R51: unpacking a packed cell gives it back. -/
theorem unpack_pack (c : Pixel) : unpackPixel (packPixel c) = c := by
  obtain ⟨r, g, b⟩ := c
  have hr := r.isLt
  have hg := g.isLt
  have hb := b.isLt
  have h1 : (r.toNat * 65536 + g.toNat * 256 + b.toNat) / 65536 = r.toNat := by omega
  have h2 : (r.toNat * 65536 + g.toNat * 256 + b.toNat) / 256 = r.toNat * 256 + g.toNat := by omega
  simp only [unpackPixel, packPixel, h1, h2, Pixel.mk.injEq]
  refine ⟨?_, ?_, ?_⟩ <;> apply BitVec.eq_of_toNat_eq <;> simp <;> omega

end Sys2Proof
end

