-- ==== Sys2Proof/Laws/Operands.lean ====
section
/-! SUPPORT. What the operand forms are, in arithmetic terms, one lemma per function. -/

namespace Sys2Proof.Machine

theorem toNat_and_three (g : Byte) : (g &&& 0b11#8).toNat = g.toNat % 4 := by
  revert g; decide

theorem toNat_shiftRight_five (g : Byte) : (g >>> 5).toNat = g.toNat / 32 := by
  simp [Nat.shiftRight_eq_div_pow]

/-- R55: the invalid Calculate control bytes. -/
theorem calcControl_eq_none {g : Byte} (h : g.toNat % 4 = 0 ∨ g.toNat / 32 = 0 ∨ 5 ≤ g.toNat / 32) :
    calcControl g = none := by
  revert g; decide

theorem calcChannel_isSome {g : Byte} (h : g.toNat % 4 ≠ 0) : ∃ ch, calcChannel g = some ch := by
  have h' : g.toNat % 4 = 1 ∨ g.toNat % 4 = 2 ∨ g.toNat % 4 = 3 := by omega
  unfold calcChannel
  rw [toNat_and_three]
  rcases h' with h | h | h <;> rw [h] <;> exact ⟨_, rfl⟩

/-- R55: channel 1 is `r`, 2 is `g`, 3 is `b`. -/
theorem channelByte_calcChannel {g : Byte} {ch : Channel} (h : calcChannel g = some ch) (t : Pixel) :
    channelByte t ch = if g.toNat % 4 = 1 then t.r else if g.toNat % 4 = 2 then t.g else t.b := by
  unfold calcChannel at h
  rw [toNat_and_three] at h
  split at h <;> cases h <;> simp [channelByte, *]

/-- R55: the operator number of a Calculate whose operator is valid. -/
theorem toNat_of_calcOperator {g : Byte} {op : CalcOp} (h : calcOperator g = some op) :
    g.toNat / 32 = match op with | .add => 1 | .sub => 2 | .mul => 3 | .div => 4 := by
  unfold calcOperator at h
  rw [toNat_shiftRight_five] at h
  split at h <;> cases h <;> assumption

/-- R55: Calculate looks at bits 7..5 and 1..0 only. -/
theorem calcControl_congr {g g' : Byte} (hop : g.toNat / 32 = g'.toNat / 32) (hch : g.toNat % 4 = g'.toNat % 4) :
    calcControl g = calcControl g' := by
  simp only [calcControl, calcOperator, calcChannel, toNat_and_three, toNat_shiftRight_five, hop, hch]

/-- R82: only a division by 0 has no result. -/
theorem calcResult_eq_none {op : CalcOp} {a v : Byte} : calcResult op a v = none ↔ op = .div ∧ v = 0#8 := by
  cases op <;> simp [calcResult]

/-- R121: the accepted byte codes. -/
theorem printable_iff {c : Byte} : printable c = true ↔ 32 ≤ c.toNat ∧ c.toNat ≤ 126 := by
  simp [printable]

end Sys2Proof.Machine
end

