-- ==== Sys2Proof/Laws/Memory.lean ====
section
/-! SUPPORT. The laws of the program store: read after write, the canonical form, and that equal reads are equal lists. -/

namespace Sys2Proof.Machine

theorem Memory.wfFrom_cons (lo k : Nat) (v : Byte) (m : Memory) :
    Memory.wfFrom lo ((k, v) :: m) = true ↔ lo ≤ k ∧ v ≠ 0#8 ∧ Memory.wfFrom (k + 1) m = true := by
  simp [Memory.wfFrom, and_assoc]

theorem Memory.wfFrom_mono {lo lo' : Nat} {m : Memory} (h : lo' ≤ lo) (hm : Memory.wfFrom lo m = true) :
    Memory.wfFrom lo' m = true := by
  cases m with
  | nil => rfl
  | cons c m =>
    obtain ⟨k, v⟩ := c
    rw [Memory.wfFrom_cons] at hm ⊢
    exact ⟨h.trans hm.1, hm.2⟩

/-- Below its first address a canonical memory reads as unlisted. -/
theorem Memory.read_of_lt {lo a : Nat} {m : Memory} (hm : Memory.wfFrom lo m = true) (ha : a < lo) :
    Memory.read m a = 0#8 := by
  induction m generalizing lo with
  | nil => rfl
  | cons c m ih =>
    obtain ⟨k, v⟩ := c
    rw [Memory.wfFrom_cons] at hm
    have hk : k ≠ a := by omega
    simp only [Memory.read, hk, if_false]
    exact ih hm.2.2 (by omega)

/-- Read after write, for a canonical memory. -/
theorem Memory.read_write {lo : Nat} {m : Memory} (hm : Memory.wfFrom lo m = true) (a b : Nat) (v : Byte) :
    Memory.read (Memory.write m a v) b = if a = b then v else Memory.read m b := by
  induction m generalizing lo with
  | nil => by_cases hv : v = 0#8 <;> by_cases hab : a = b <;> simp [Memory.write, Memory.read, hv, hab]
  | cons c m ih =>
    obtain ⟨k, w⟩ := c
    rw [Memory.wfFrom_cons] at hm
    have hread : ∀ x, x ≤ k → Memory.read m x = 0#8 := fun x hx => Memory.read_of_lt hm.2.2 (by omega)
    by_cases hak : a < k
    · by_cases hv : v = 0#8
      · by_cases hab : a = b
        · subst hab
          have hk : k ≠ a := by omega
          simp [Memory.write, Memory.read, hak, hv, hk, hread a (by omega)]
        · simp [Memory.write, hak, hv, hab]
      · by_cases hab : a = b
        · subst hab; simp [Memory.write, Memory.read, hak, hv]
        · simp [Memory.write, Memory.read, hak, hv, hab]
    · by_cases hk : a = k
      · subst hk
        by_cases hv : v = 0#8
        · by_cases hab : a = b
          · subst hab; simp [Memory.write, hv, hread a (by omega)]
          · simp [Memory.write, Memory.read, hv, hab]
        · by_cases hab : a = b <;> simp [Memory.write, Memory.read, hv, hab]
      · by_cases hkb : k = b
        · subst hkb; simp [Memory.write, Memory.read, hak, hk]
        · simp [Memory.write, Memory.read, hak, hk, hkb, ih hm.2.2]

theorem Memory.write_wfFrom {lo : Nat} {m : Memory} (hm : Memory.wfFrom lo m = true) (a : Nat) (v : Byte)
    (ha : lo ≤ a) : Memory.wfFrom lo (Memory.write m a v) = true := by
  induction m generalizing lo with
  | nil => by_cases hv : v = 0#8 <;> simp [Memory.write, Memory.wfFrom, hv, ha]
  | cons c m ih =>
    obtain ⟨k, w⟩ := c
    have hm' := (Memory.wfFrom_cons _ _ _ _).mp hm
    by_cases hak : a < k
    · by_cases hv : v = 0#8
      · simpa [Memory.write, hak, hv] using hm
      · simp only [Memory.write, hak, hv, if_true, if_false, Memory.wfFrom_cons]
        exact ⟨ha, hv, by omega, hm'.2⟩
    · by_cases hk : a = k
      · subst hk
        by_cases hv : v = 0#8
        · simp only [Memory.write, hak, hv, if_true, if_false]
          exact Memory.wfFrom_mono (by omega) hm'.2.2
        · simp only [Memory.write, hak, hv, if_true, if_false, Memory.wfFrom_cons]
          exact ⟨ha, hv, hm'.2.2⟩
      · simp only [Memory.write, hak, hk, if_false, Memory.wfFrom_cons]
        exact ⟨hm'.1, hm'.2.1, ih hm'.2.2 (by omega)⟩

/-- A byte write keeps the canonical form. -/
theorem Memory.write_wf {m : Memory} (hm : Memory.wf m = true) (a : Nat) (v : Byte) :
    Memory.wf (Memory.write m a v) = true :=
  Memory.write_wfFrom hm a v (Nat.zero_le a)

/-- A cell write keeps the canonical form. -/
theorem storePixel_wf {m : Memory} (hm : Memory.wf m = true) (w : Nat) (L : Loc) (c : Pixel) :
    Memory.wf (storePixel w m L c) = true :=
  Memory.write_wf (Memory.write_wf (Memory.write_wf hm _ _) _ _) _ _

/-- Placing an instruction keeps the canonical form. -/
theorem loadAtFetch_wf {s : State} (hm : Memory.wf s.mem = true) (c : Pixel) : Memory.wf (loadAtFetch s c) = true :=
  storePixel_wf hm _ _ _

/-- The reset state's store is canonical. -/
theorem reset_mem_wf : Memory.wf State.reset.mem = true := rfl

/-- What a cell write changes: the cell's three bytes. -/
theorem read_storePixel {m : Memory} (hm : Memory.wf m = true) (w : Nat) (L : Loc) (c : Pixel) (a : Nat) :
    Memory.read (storePixel w m L c) a =
      if a = pixelAddr w L then c.r else if a = pixelAddr w L + 1 then c.g
      else if a = pixelAddr w L + 2 then c.b else Memory.read m a := by
  have h1 := Memory.write_wf hm (pixelAddr w L) c.r
  have h2 := Memory.write_wf h1 (pixelAddr w L + 1) c.g
  simp only [storePixel, Memory.read_write h2, Memory.read_write h1, Memory.read_write hm]
  split_ifs <;> first | rfl | omega

/-- Two canonical memories that read the same are the same list. -/
theorem Memory.ext_of_read {lo : Nat} {m m' : Memory} (hm : Memory.wfFrom lo m = true)
    (hm' : Memory.wfFrom lo m' = true) (h : ∀ a, Memory.read m a = Memory.read m' a) : m = m' := by
  induction m generalizing lo m' with
  | nil =>
    cases m' with
    | nil => rfl
    | cons c m' =>
      obtain ⟨k, v⟩ := c
      have := h k
      simp [Memory.read] at this
      exact absurd this.symm ((Memory.wfFrom_cons _ _ _ _).mp hm').2.1
  | cons c m ih =>
    obtain ⟨k, v⟩ := c
    have hc := (Memory.wfFrom_cons _ _ _ _).mp hm
    cases m' with
    | nil =>
      have := h k
      simp [Memory.read] at this
      exact absurd this hc.2.1
    | cons c' m' =>
      obtain ⟨k', v'⟩ := c'
      have hc' := (Memory.wfFrom_cons _ _ _ _).mp hm'
      have hkk : k = k' := by
        rcases lt_trichotomy k k' with hlt | heq | hgt
        · have hr := h k
          have h0 : Memory.read ((k', v') :: m') k = 0#8 := by
            have hne : k' ≠ k := by omega
            simp only [Memory.read, hne, if_false]
            exact Memory.read_of_lt hc'.2.2 (by omega)
          rw [h0] at hr
          simp [Memory.read] at hr
          exact absurd hr hc.2.1
        · exact heq
        · have hr := h k'
          have h0 : Memory.read ((k, v) :: m) k' = 0#8 := by
            have hne : k ≠ k' := by omega
            simp only [Memory.read, hne, if_false]
            exact Memory.read_of_lt hc.2.2 (by omega)
          rw [h0] at hr
          simp [Memory.read] at hr
          exact absurd hr.symm hc'.2.1
      subst hkk
      have hv : v = v' := by simpa [Memory.read] using h k
      subst hv
      have htail : m = m' := by
        refine ih hc.2.2 hc'.2.2 fun a => ?_
        by_cases hka : k = a
        · subst hka
          rw [Memory.read_of_lt hc.2.2 (by omega), Memory.read_of_lt hc'.2.2 (by omega)]
        · simpa [Memory.read, hka] using h a
      rw [htail]

/-- The store that a filter over rising addresses builds is canonical. -/
theorem Memory.filterMap_range'_wf (f : Nat → Byte) (lo n : Nat) :
    Memory.wfFrom lo ((List.range' lo n).filterMap fun a => if f a = 0#8 then none else some (a, f a)) = true := by
  induction n generalizing lo with
  | zero => rfl
  | succ n ih =>
    rw [List.range'_succ, List.filterMap_cons]
    by_cases h : f lo = 0#8
    · simpa [h] using Memory.wfFrom_mono (Nat.le_succ lo) (ih (lo + 1))
    · simp only [h, if_false]
      rw [Memory.wfFrom_cons]
      exact ⟨le_rfl, h, ih (lo + 1)⟩

theorem Memory.read_filterMap_range' (f : Nat → Byte) (lo n a : Nat) :
    Memory.read ((List.range' lo n).filterMap fun a => if f a = 0#8 then none else some (a, f a)) a =
      if lo ≤ a ∧ a < lo + n then f a else 0#8 := by
  induction n generalizing lo with
  | zero => simp [Memory.read]
  | succ n ih =>
    rw [List.range'_succ, List.filterMap_cons]
    by_cases hla : lo = a
    · subst hla
      by_cases h : f lo = 0#8
      · simp [h, ih]
      · simp [h, Memory.read]
    · have hcond : (lo + 1 ≤ a ∧ a < lo + 1 + n) ↔ (lo ≤ a ∧ a < lo + (n + 1)) := by omega
      by_cases h : f lo = 0#8
      · simp only [h, if_true, ih]; simp only [hcond]
      · simp only [h, if_false, Memory.read, hla, ih]; simp only [hcond]

/-- A constructed store is canonical. -/
theorem Memory.ofGrid_wf (w h : Nat) (grid : Nat → Nat → Pixel) : Memory.wf (Memory.ofGrid w h grid) = true := by
  simpa [Memory.wf, Memory.ofGrid, List.range_eq_range'] using
    Memory.filterMap_range'_wf (gridByte w grid) 0 (3 * (w * h))

/-- A constructed store lists only addresses of the grid. -/
theorem Memory.ofGrid_below (w h : Nat) (grid : Nat → Nat → Pixel) :
    Memory.below (3 * (w * h)) (Memory.ofGrid w h grid) = true := by
  simp only [Memory.below, Memory.ofGrid, List.all_eq_true, List.mem_filterMap, List.mem_range, decide_eq_true_eq]
  rintro c ⟨a, ha, hc⟩
  by_cases h0 : gridByte w grid a = 0#8
  · simp [h0] at hc
  · simp only [h0, if_false, Option.some.injEq] at hc
    rw [← hc]; exact ha

/-- The bytes of a constructed store. -/
theorem Memory.read_ofGrid (w h : Nat) (grid : Nat → Nat → Pixel) (a : Nat) :
    Memory.read (Memory.ofGrid w h grid) a = if a < 3 * (w * h) then gridByte w grid a else 0#8 := by
  simpa [Memory.ofGrid, List.range_eq_range'] using
    Memory.read_filterMap_range' (gridByte w grid) 0 (3 * (w * h)) a

end Sys2Proof.Machine
end

