-- ==== Sys2Proof/Laws/State.lean ====
section
/-! SUPPORT. One lemma per field per update of State, and per accessor an update leaves alone, each true by rfl. -/

namespace Sys2Proof.Machine

/-! `State.setReg` -/

@[simp] theorem State.setReg_params (s : State) (i v : Byte) : (s.setReg i v).params = s.params := rfl
@[simp] theorem State.setReg_width (s : State) (i v : Byte) : (s.setReg i v).width = s.width := rfl
@[simp] theorem State.setReg_height (s : State) (i v : Byte) : (s.setReg i v).height = s.height := rfl
@[simp] theorem State.setReg_mem (s : State) (i v : Byte) : (s.setReg i v).mem = s.mem := rfl
@[simp] theorem State.setReg_input (s : State) (i v : Byte) : (s.setReg i v).input = s.input := rfl
@[simp] theorem State.setReg_regs (s : State) (i v : Byte) : (s.setReg i v).regs = s.regs.set i.toNat v i.isLt := rfl
@[simp] theorem State.setReg_written (s : State) (i v : Byte) : (s.setReg i v).written = s.written.set i.toNat true i.isLt := rfl
@[simp] theorem State.setReg_pc (s : State) (i v : Byte) : (s.setReg i v).pc = s.pc := rfl
@[simp] theorem State.setReg_dir (s : State) (i v : Byte) : (s.setReg i v).dir = s.dir := rfl
@[simp] theorem State.setReg_fns (s : State) (i v : Byte) : (s.setReg i v).fns = s.fns := rfl
@[simp] theorem State.setReg_tryLatch (s : State) (i v : Byte) : (s.setReg i v).tryLatch = s.tryLatch := rfl
@[simp] theorem State.setReg_stack (s : State) (i v : Byte) : (s.setReg i v).stack = s.stack := rfl
@[simp] theorem State.setReg_icur (s : State) (i v : Byte) : (s.setReg i v).icur = s.icur := rfl
@[simp] theorem State.setReg_out (s : State) (i v : Byte) : (s.setReg i v).out = s.out := rfl
@[simp] theorem State.setReg_mode (s : State) (i v : Byte) : (s.setReg i v).mode = s.mode := rfl
@[simp] theorem State.setReg_fault (s : State) (i v : Byte) : (s.setReg i v).fault = s.fault := rfl
@[simp] theorem State.setReg_fn (s : State) (i v : Byte) (j : Byte) : (s.setReg i v).fn j = s.fn j := rfl
@[simp] theorem State.setReg_inPeek (s : State) (i v : Byte) : (s.setReg i v).inPeek = s.inPeek := rfl
@[simp] theorem State.setReg_stackFull (s : State) (i v : Byte) : (s.setReg i v).stackFull = s.stackFull := rfl
@[simp] theorem State.setReg_isRunning (s : State) (i v : Byte) : (s.setReg i v).isRunning = s.isRunning := rfl

/-! `State.setFn` -/

@[simp] theorem State.setFn_params (s : State) (i : Byte) (f : FnSlot) : (s.setFn i f).params = s.params := rfl
@[simp] theorem State.setFn_width (s : State) (i : Byte) (f : FnSlot) : (s.setFn i f).width = s.width := rfl
@[simp] theorem State.setFn_height (s : State) (i : Byte) (f : FnSlot) : (s.setFn i f).height = s.height := rfl
@[simp] theorem State.setFn_mem (s : State) (i : Byte) (f : FnSlot) : (s.setFn i f).mem = s.mem := rfl
@[simp] theorem State.setFn_input (s : State) (i : Byte) (f : FnSlot) : (s.setFn i f).input = s.input := rfl
@[simp] theorem State.setFn_regs (s : State) (i : Byte) (f : FnSlot) : (s.setFn i f).regs = s.regs := rfl
@[simp] theorem State.setFn_written (s : State) (i : Byte) (f : FnSlot) : (s.setFn i f).written = s.written := rfl
@[simp] theorem State.setFn_pc (s : State) (i : Byte) (f : FnSlot) : (s.setFn i f).pc = s.pc := rfl
@[simp] theorem State.setFn_dir (s : State) (i : Byte) (f : FnSlot) : (s.setFn i f).dir = s.dir := rfl
@[simp] theorem State.setFn_fns (s : State) (i : Byte) (f : FnSlot) : (s.setFn i f).fns = s.fns.set i.toNat (some f) i.isLt := rfl
@[simp] theorem State.setFn_tryLatch (s : State) (i : Byte) (f : FnSlot) : (s.setFn i f).tryLatch = s.tryLatch := rfl
@[simp] theorem State.setFn_stack (s : State) (i : Byte) (f : FnSlot) : (s.setFn i f).stack = s.stack := rfl
@[simp] theorem State.setFn_icur (s : State) (i : Byte) (f : FnSlot) : (s.setFn i f).icur = s.icur := rfl
@[simp] theorem State.setFn_out (s : State) (i : Byte) (f : FnSlot) : (s.setFn i f).out = s.out := rfl
@[simp] theorem State.setFn_mode (s : State) (i : Byte) (f : FnSlot) : (s.setFn i f).mode = s.mode := rfl
@[simp] theorem State.setFn_fault (s : State) (i : Byte) (f : FnSlot) : (s.setFn i f).fault = s.fault := rfl
@[simp] theorem State.setFn_reg (s : State) (i : Byte) (f : FnSlot) (j : Byte) : (s.setFn i f).reg j = s.reg j := rfl
@[simp] theorem State.setFn_wasWritten (s : State) (i : Byte) (f : FnSlot) (j : Byte) : (s.setFn i f).wasWritten j = s.wasWritten j := rfl
@[simp] theorem State.setFn_readable (s : State) (i : Byte) (f : FnSlot) (j : Byte) : (s.setFn i f).readable j = s.readable j := rfl
@[simp] theorem State.setFn_inPeek (s : State) (i : Byte) (f : FnSlot) : (s.setFn i f).inPeek = s.inPeek := rfl
@[simp] theorem State.setFn_stackFull (s : State) (i : Byte) (f : FnSlot) : (s.setFn i f).stackFull = s.stackFull := rfl
@[simp] theorem State.setFn_isRunning (s : State) (i : Byte) (f : FnSlot) : (s.setFn i f).isRunning = s.isRunning := rfl

/-! `State.setTry` -/

@[simp] theorem State.setTry_params (s : State) (h : Option TryHandler) : (s.setTry h).params = s.params := rfl
@[simp] theorem State.setTry_width (s : State) (h : Option TryHandler) : (s.setTry h).width = s.width := rfl
@[simp] theorem State.setTry_height (s : State) (h : Option TryHandler) : (s.setTry h).height = s.height := rfl
@[simp] theorem State.setTry_mem (s : State) (h : Option TryHandler) : (s.setTry h).mem = s.mem := rfl
@[simp] theorem State.setTry_input (s : State) (h : Option TryHandler) : (s.setTry h).input = s.input := rfl
@[simp] theorem State.setTry_regs (s : State) (h : Option TryHandler) : (s.setTry h).regs = s.regs := rfl
@[simp] theorem State.setTry_written (s : State) (h : Option TryHandler) : (s.setTry h).written = s.written := rfl
@[simp] theorem State.setTry_pc (s : State) (h : Option TryHandler) : (s.setTry h).pc = s.pc := rfl
@[simp] theorem State.setTry_dir (s : State) (h : Option TryHandler) : (s.setTry h).dir = s.dir := rfl
@[simp] theorem State.setTry_fns (s : State) (h : Option TryHandler) : (s.setTry h).fns = s.fns := rfl
@[simp] theorem State.setTry_tryLatch (s : State) (h : Option TryHandler) : (s.setTry h).tryLatch = h := rfl
@[simp] theorem State.setTry_stack (s : State) (h : Option TryHandler) : (s.setTry h).stack = s.stack := rfl
@[simp] theorem State.setTry_icur (s : State) (h : Option TryHandler) : (s.setTry h).icur = s.icur := rfl
@[simp] theorem State.setTry_out (s : State) (h : Option TryHandler) : (s.setTry h).out = s.out := rfl
@[simp] theorem State.setTry_mode (s : State) (h : Option TryHandler) : (s.setTry h).mode = s.mode := rfl
@[simp] theorem State.setTry_fault (s : State) (h : Option TryHandler) : (s.setTry h).fault = s.fault := rfl
@[simp] theorem State.setTry_reg (s : State) (h : Option TryHandler) (j : Byte) : (s.setTry h).reg j = s.reg j := rfl
@[simp] theorem State.setTry_wasWritten (s : State) (h : Option TryHandler) (j : Byte) : (s.setTry h).wasWritten j = s.wasWritten j := rfl
@[simp] theorem State.setTry_readable (s : State) (h : Option TryHandler) (j : Byte) : (s.setTry h).readable j = s.readable j := rfl
@[simp] theorem State.setTry_fn (s : State) (h : Option TryHandler) (j : Byte) : (s.setTry h).fn j = s.fn j := rfl
@[simp] theorem State.setTry_inPeek (s : State) (h : Option TryHandler) : (s.setTry h).inPeek = s.inPeek := rfl
@[simp] theorem State.setTry_stackFull (s : State) (h : Option TryHandler) : (s.setTry h).stackFull = s.stackFull := rfl
@[simp] theorem State.setTry_isRunning (s : State) (h : Option TryHandler) : (s.setTry h).isRunning = s.isRunning := rfl

/-! `State.setPc` -/

@[simp] theorem State.setPc_params (s : State) (L : Loc) : (s.setPc L).params = s.params := rfl
@[simp] theorem State.setPc_width (s : State) (L : Loc) : (s.setPc L).width = s.width := rfl
@[simp] theorem State.setPc_height (s : State) (L : Loc) : (s.setPc L).height = s.height := rfl
@[simp] theorem State.setPc_mem (s : State) (L : Loc) : (s.setPc L).mem = s.mem := rfl
@[simp] theorem State.setPc_input (s : State) (L : Loc) : (s.setPc L).input = s.input := rfl
@[simp] theorem State.setPc_regs (s : State) (L : Loc) : (s.setPc L).regs = s.regs := rfl
@[simp] theorem State.setPc_written (s : State) (L : Loc) : (s.setPc L).written = s.written := rfl
@[simp] theorem State.setPc_pc (s : State) (L : Loc) : (s.setPc L).pc = L := rfl
@[simp] theorem State.setPc_dir (s : State) (L : Loc) : (s.setPc L).dir = s.dir := rfl
@[simp] theorem State.setPc_fns (s : State) (L : Loc) : (s.setPc L).fns = s.fns := rfl
@[simp] theorem State.setPc_tryLatch (s : State) (L : Loc) : (s.setPc L).tryLatch = s.tryLatch := rfl
@[simp] theorem State.setPc_stack (s : State) (L : Loc) : (s.setPc L).stack = s.stack := rfl
@[simp] theorem State.setPc_icur (s : State) (L : Loc) : (s.setPc L).icur = s.icur := rfl
@[simp] theorem State.setPc_out (s : State) (L : Loc) : (s.setPc L).out = s.out := rfl
@[simp] theorem State.setPc_mode (s : State) (L : Loc) : (s.setPc L).mode = s.mode := rfl
@[simp] theorem State.setPc_fault (s : State) (L : Loc) : (s.setPc L).fault = s.fault := rfl
@[simp] theorem State.setPc_reg (s : State) (L : Loc) (j : Byte) : (s.setPc L).reg j = s.reg j := rfl
@[simp] theorem State.setPc_wasWritten (s : State) (L : Loc) (j : Byte) : (s.setPc L).wasWritten j = s.wasWritten j := rfl
@[simp] theorem State.setPc_readable (s : State) (L : Loc) (j : Byte) : (s.setPc L).readable j = s.readable j := rfl
@[simp] theorem State.setPc_fn (s : State) (L : Loc) (j : Byte) : (s.setPc L).fn j = s.fn j := rfl
@[simp] theorem State.setPc_inPeek (s : State) (L : Loc) : (s.setPc L).inPeek = s.inPeek := rfl
@[simp] theorem State.setPc_stackFull (s : State) (L : Loc) : (s.setPc L).stackFull = s.stackFull := rfl
@[simp] theorem State.setPc_isRunning (s : State) (L : Loc) : (s.setPc L).isRunning = s.isRunning := rfl

/-! `State.setDir` -/

@[simp] theorem State.setDir_params (s : State) (d : Dir) : (s.setDir d).params = s.params := rfl
@[simp] theorem State.setDir_width (s : State) (d : Dir) : (s.setDir d).width = s.width := rfl
@[simp] theorem State.setDir_height (s : State) (d : Dir) : (s.setDir d).height = s.height := rfl
@[simp] theorem State.setDir_mem (s : State) (d : Dir) : (s.setDir d).mem = s.mem := rfl
@[simp] theorem State.setDir_input (s : State) (d : Dir) : (s.setDir d).input = s.input := rfl
@[simp] theorem State.setDir_regs (s : State) (d : Dir) : (s.setDir d).regs = s.regs := rfl
@[simp] theorem State.setDir_written (s : State) (d : Dir) : (s.setDir d).written = s.written := rfl
@[simp] theorem State.setDir_pc (s : State) (d : Dir) : (s.setDir d).pc = s.pc := rfl
@[simp] theorem State.setDir_dir (s : State) (d : Dir) : (s.setDir d).dir = d := rfl
@[simp] theorem State.setDir_fns (s : State) (d : Dir) : (s.setDir d).fns = s.fns := rfl
@[simp] theorem State.setDir_tryLatch (s : State) (d : Dir) : (s.setDir d).tryLatch = s.tryLatch := rfl
@[simp] theorem State.setDir_stack (s : State) (d : Dir) : (s.setDir d).stack = s.stack := rfl
@[simp] theorem State.setDir_icur (s : State) (d : Dir) : (s.setDir d).icur = s.icur := rfl
@[simp] theorem State.setDir_out (s : State) (d : Dir) : (s.setDir d).out = s.out := rfl
@[simp] theorem State.setDir_mode (s : State) (d : Dir) : (s.setDir d).mode = s.mode := rfl
@[simp] theorem State.setDir_fault (s : State) (d : Dir) : (s.setDir d).fault = s.fault := rfl
@[simp] theorem State.setDir_reg (s : State) (d : Dir) (j : Byte) : (s.setDir d).reg j = s.reg j := rfl
@[simp] theorem State.setDir_wasWritten (s : State) (d : Dir) (j : Byte) : (s.setDir d).wasWritten j = s.wasWritten j := rfl
@[simp] theorem State.setDir_readable (s : State) (d : Dir) (j : Byte) : (s.setDir d).readable j = s.readable j := rfl
@[simp] theorem State.setDir_fn (s : State) (d : Dir) (j : Byte) : (s.setDir d).fn j = s.fn j := rfl
@[simp] theorem State.setDir_inPeek (s : State) (d : Dir) : (s.setDir d).inPeek = s.inPeek := rfl
@[simp] theorem State.setDir_stackFull (s : State) (d : Dir) : (s.setDir d).stackFull = s.stackFull := rfl
@[simp] theorem State.setDir_isRunning (s : State) (d : Dir) : (s.setDir d).isRunning = s.isRunning := rfl

/-! `State.push` -/

@[simp] theorem State.push_params (s : State) (L : Loc) : (s.push L).params = s.params := rfl
@[simp] theorem State.push_width (s : State) (L : Loc) : (s.push L).width = s.width := rfl
@[simp] theorem State.push_height (s : State) (L : Loc) : (s.push L).height = s.height := rfl
@[simp] theorem State.push_mem (s : State) (L : Loc) : (s.push L).mem = s.mem := rfl
@[simp] theorem State.push_input (s : State) (L : Loc) : (s.push L).input = s.input := rfl
@[simp] theorem State.push_regs (s : State) (L : Loc) : (s.push L).regs = s.regs := rfl
@[simp] theorem State.push_written (s : State) (L : Loc) : (s.push L).written = s.written := rfl
@[simp] theorem State.push_pc (s : State) (L : Loc) : (s.push L).pc = s.pc := rfl
@[simp] theorem State.push_dir (s : State) (L : Loc) : (s.push L).dir = s.dir := rfl
@[simp] theorem State.push_fns (s : State) (L : Loc) : (s.push L).fns = s.fns := rfl
@[simp] theorem State.push_tryLatch (s : State) (L : Loc) : (s.push L).tryLatch = s.tryLatch := rfl
@[simp] theorem State.push_stack (s : State) (L : Loc) : (s.push L).stack = L :: s.stack := rfl
@[simp] theorem State.push_icur (s : State) (L : Loc) : (s.push L).icur = s.icur := rfl
@[simp] theorem State.push_out (s : State) (L : Loc) : (s.push L).out = s.out := rfl
@[simp] theorem State.push_mode (s : State) (L : Loc) : (s.push L).mode = s.mode := rfl
@[simp] theorem State.push_fault (s : State) (L : Loc) : (s.push L).fault = s.fault := rfl
@[simp] theorem State.push_reg (s : State) (L : Loc) (j : Byte) : (s.push L).reg j = s.reg j := rfl
@[simp] theorem State.push_wasWritten (s : State) (L : Loc) (j : Byte) : (s.push L).wasWritten j = s.wasWritten j := rfl
@[simp] theorem State.push_readable (s : State) (L : Loc) (j : Byte) : (s.push L).readable j = s.readable j := rfl
@[simp] theorem State.push_fn (s : State) (L : Loc) (j : Byte) : (s.push L).fn j = s.fn j := rfl
@[simp] theorem State.push_inPeek (s : State) (L : Loc) : (s.push L).inPeek = s.inPeek := rfl
@[simp] theorem State.push_isRunning (s : State) (L : Loc) : (s.push L).isRunning = s.isRunning := rfl

/-! `State.setStack` -/

@[simp] theorem State.setStack_params (s : State) (st : List Loc) : (s.setStack st).params = s.params := rfl
@[simp] theorem State.setStack_width (s : State) (st : List Loc) : (s.setStack st).width = s.width := rfl
@[simp] theorem State.setStack_height (s : State) (st : List Loc) : (s.setStack st).height = s.height := rfl
@[simp] theorem State.setStack_mem (s : State) (st : List Loc) : (s.setStack st).mem = s.mem := rfl
@[simp] theorem State.setStack_input (s : State) (st : List Loc) : (s.setStack st).input = s.input := rfl
@[simp] theorem State.setStack_regs (s : State) (st : List Loc) : (s.setStack st).regs = s.regs := rfl
@[simp] theorem State.setStack_written (s : State) (st : List Loc) : (s.setStack st).written = s.written := rfl
@[simp] theorem State.setStack_pc (s : State) (st : List Loc) : (s.setStack st).pc = s.pc := rfl
@[simp] theorem State.setStack_dir (s : State) (st : List Loc) : (s.setStack st).dir = s.dir := rfl
@[simp] theorem State.setStack_fns (s : State) (st : List Loc) : (s.setStack st).fns = s.fns := rfl
@[simp] theorem State.setStack_tryLatch (s : State) (st : List Loc) : (s.setStack st).tryLatch = s.tryLatch := rfl
@[simp] theorem State.setStack_stack (s : State) (st : List Loc) : (s.setStack st).stack = st := rfl
@[simp] theorem State.setStack_icur (s : State) (st : List Loc) : (s.setStack st).icur = s.icur := rfl
@[simp] theorem State.setStack_out (s : State) (st : List Loc) : (s.setStack st).out = s.out := rfl
@[simp] theorem State.setStack_mode (s : State) (st : List Loc) : (s.setStack st).mode = s.mode := rfl
@[simp] theorem State.setStack_fault (s : State) (st : List Loc) : (s.setStack st).fault = s.fault := rfl
@[simp] theorem State.setStack_reg (s : State) (st : List Loc) (j : Byte) : (s.setStack st).reg j = s.reg j := rfl
@[simp] theorem State.setStack_wasWritten (s : State) (st : List Loc) (j : Byte) : (s.setStack st).wasWritten j = s.wasWritten j := rfl
@[simp] theorem State.setStack_readable (s : State) (st : List Loc) (j : Byte) : (s.setStack st).readable j = s.readable j := rfl
@[simp] theorem State.setStack_fn (s : State) (st : List Loc) (j : Byte) : (s.setStack st).fn j = s.fn j := rfl
@[simp] theorem State.setStack_inPeek (s : State) (st : List Loc) : (s.setStack st).inPeek = s.inPeek := rfl
@[simp] theorem State.setStack_isRunning (s : State) (st : List Loc) : (s.setStack st).isRunning = s.isRunning := rfl

/-! `State.bumpInput` -/

@[simp] theorem State.bumpInput_params (s : State) : (s.bumpInput).params = s.params := rfl
@[simp] theorem State.bumpInput_width (s : State) : (s.bumpInput).width = s.width := rfl
@[simp] theorem State.bumpInput_height (s : State) : (s.bumpInput).height = s.height := rfl
@[simp] theorem State.bumpInput_mem (s : State) : (s.bumpInput).mem = s.mem := rfl
@[simp] theorem State.bumpInput_input (s : State) : (s.bumpInput).input = s.input := rfl
@[simp] theorem State.bumpInput_regs (s : State) : (s.bumpInput).regs = s.regs := rfl
@[simp] theorem State.bumpInput_written (s : State) : (s.bumpInput).written = s.written := rfl
@[simp] theorem State.bumpInput_pc (s : State) : (s.bumpInput).pc = s.pc := rfl
@[simp] theorem State.bumpInput_dir (s : State) : (s.bumpInput).dir = s.dir := rfl
@[simp] theorem State.bumpInput_fns (s : State) : (s.bumpInput).fns = s.fns := rfl
@[simp] theorem State.bumpInput_tryLatch (s : State) : (s.bumpInput).tryLatch = s.tryLatch := rfl
@[simp] theorem State.bumpInput_stack (s : State) : (s.bumpInput).stack = s.stack := rfl
@[simp] theorem State.bumpInput_icur (s : State) : (s.bumpInput).icur = s.icur + 1 := rfl
@[simp] theorem State.bumpInput_out (s : State) : (s.bumpInput).out = s.out := rfl
@[simp] theorem State.bumpInput_mode (s : State) : (s.bumpInput).mode = s.mode := rfl
@[simp] theorem State.bumpInput_fault (s : State) : (s.bumpInput).fault = s.fault := rfl
@[simp] theorem State.bumpInput_reg (s : State) (j : Byte) : (s.bumpInput).reg j = s.reg j := rfl
@[simp] theorem State.bumpInput_wasWritten (s : State) (j : Byte) : (s.bumpInput).wasWritten j = s.wasWritten j := rfl
@[simp] theorem State.bumpInput_readable (s : State) (j : Byte) : (s.bumpInput).readable j = s.readable j := rfl
@[simp] theorem State.bumpInput_fn (s : State) (j : Byte) : (s.bumpInput).fn j = s.fn j := rfl
@[simp] theorem State.bumpInput_stackFull (s : State) : (s.bumpInput).stackFull = s.stackFull := rfl
@[simp] theorem State.bumpInput_isRunning (s : State) : (s.bumpInput).isRunning = s.isRunning := rfl

/-! `State.outAppend` -/

@[simp] theorem State.outAppend_params (s : State) (c : Byte) : (s.outAppend c).params = s.params := rfl
@[simp] theorem State.outAppend_width (s : State) (c : Byte) : (s.outAppend c).width = s.width := rfl
@[simp] theorem State.outAppend_height (s : State) (c : Byte) : (s.outAppend c).height = s.height := rfl
@[simp] theorem State.outAppend_mem (s : State) (c : Byte) : (s.outAppend c).mem = s.mem := rfl
@[simp] theorem State.outAppend_input (s : State) (c : Byte) : (s.outAppend c).input = s.input := rfl
@[simp] theorem State.outAppend_regs (s : State) (c : Byte) : (s.outAppend c).regs = s.regs := rfl
@[simp] theorem State.outAppend_written (s : State) (c : Byte) : (s.outAppend c).written = s.written := rfl
@[simp] theorem State.outAppend_pc (s : State) (c : Byte) : (s.outAppend c).pc = s.pc := rfl
@[simp] theorem State.outAppend_dir (s : State) (c : Byte) : (s.outAppend c).dir = s.dir := rfl
@[simp] theorem State.outAppend_fns (s : State) (c : Byte) : (s.outAppend c).fns = s.fns := rfl
@[simp] theorem State.outAppend_tryLatch (s : State) (c : Byte) : (s.outAppend c).tryLatch = s.tryLatch := rfl
@[simp] theorem State.outAppend_stack (s : State) (c : Byte) : (s.outAppend c).stack = s.stack := rfl
@[simp] theorem State.outAppend_icur (s : State) (c : Byte) : (s.outAppend c).icur = s.icur := rfl
@[simp] theorem State.outAppend_out (s : State) (c : Byte) : (s.outAppend c).out = s.out ++ [c] := rfl
@[simp] theorem State.outAppend_mode (s : State) (c : Byte) : (s.outAppend c).mode = s.mode := rfl
@[simp] theorem State.outAppend_fault (s : State) (c : Byte) : (s.outAppend c).fault = s.fault := rfl
@[simp] theorem State.outAppend_reg (s : State) (c : Byte) (j : Byte) : (s.outAppend c).reg j = s.reg j := rfl
@[simp] theorem State.outAppend_wasWritten (s : State) (c : Byte) (j : Byte) : (s.outAppend c).wasWritten j = s.wasWritten j := rfl
@[simp] theorem State.outAppend_readable (s : State) (c : Byte) (j : Byte) : (s.outAppend c).readable j = s.readable j := rfl
@[simp] theorem State.outAppend_fn (s : State) (c : Byte) (j : Byte) : (s.outAppend c).fn j = s.fn j := rfl
@[simp] theorem State.outAppend_inPeek (s : State) (c : Byte) : (s.outAppend c).inPeek = s.inPeek := rfl
@[simp] theorem State.outAppend_stackFull (s : State) (c : Byte) : (s.outAppend c).stackFull = s.stackFull := rfl
@[simp] theorem State.outAppend_isRunning (s : State) (c : Byte) : (s.outAppend c).isRunning = s.isRunning := rfl

/-! `State.setMode` -/

@[simp] theorem State.setMode_params (s : State) (m : Mode) : (s.setMode m).params = s.params := rfl
@[simp] theorem State.setMode_width (s : State) (m : Mode) : (s.setMode m).width = s.width := rfl
@[simp] theorem State.setMode_height (s : State) (m : Mode) : (s.setMode m).height = s.height := rfl
@[simp] theorem State.setMode_mem (s : State) (m : Mode) : (s.setMode m).mem = s.mem := rfl
@[simp] theorem State.setMode_input (s : State) (m : Mode) : (s.setMode m).input = s.input := rfl
@[simp] theorem State.setMode_regs (s : State) (m : Mode) : (s.setMode m).regs = s.regs := rfl
@[simp] theorem State.setMode_written (s : State) (m : Mode) : (s.setMode m).written = s.written := rfl
@[simp] theorem State.setMode_pc (s : State) (m : Mode) : (s.setMode m).pc = s.pc := rfl
@[simp] theorem State.setMode_dir (s : State) (m : Mode) : (s.setMode m).dir = s.dir := rfl
@[simp] theorem State.setMode_fns (s : State) (m : Mode) : (s.setMode m).fns = s.fns := rfl
@[simp] theorem State.setMode_tryLatch (s : State) (m : Mode) : (s.setMode m).tryLatch = s.tryLatch := rfl
@[simp] theorem State.setMode_stack (s : State) (m : Mode) : (s.setMode m).stack = s.stack := rfl
@[simp] theorem State.setMode_icur (s : State) (m : Mode) : (s.setMode m).icur = s.icur := rfl
@[simp] theorem State.setMode_out (s : State) (m : Mode) : (s.setMode m).out = s.out := rfl
@[simp] theorem State.setMode_mode (s : State) (m : Mode) : (s.setMode m).mode = m := rfl
@[simp] theorem State.setMode_fault (s : State) (m : Mode) : (s.setMode m).fault = s.fault := rfl
@[simp] theorem State.setMode_reg (s : State) (m : Mode) (j : Byte) : (s.setMode m).reg j = s.reg j := rfl
@[simp] theorem State.setMode_wasWritten (s : State) (m : Mode) (j : Byte) : (s.setMode m).wasWritten j = s.wasWritten j := rfl
@[simp] theorem State.setMode_readable (s : State) (m : Mode) (j : Byte) : (s.setMode m).readable j = s.readable j := rfl
@[simp] theorem State.setMode_fn (s : State) (m : Mode) (j : Byte) : (s.setMode m).fn j = s.fn j := rfl
@[simp] theorem State.setMode_inPeek (s : State) (m : Mode) : (s.setMode m).inPeek = s.inPeek := rfl
@[simp] theorem State.setMode_stackFull (s : State) (m : Mode) : (s.setMode m).stackFull = s.stackFull := rfl

/-! `State.setFault` -/

@[simp] theorem State.setFault_params (s : State) (c : Option Byte) : (s.setFault c).params = s.params := rfl
@[simp] theorem State.setFault_width (s : State) (c : Option Byte) : (s.setFault c).width = s.width := rfl
@[simp] theorem State.setFault_height (s : State) (c : Option Byte) : (s.setFault c).height = s.height := rfl
@[simp] theorem State.setFault_mem (s : State) (c : Option Byte) : (s.setFault c).mem = s.mem := rfl
@[simp] theorem State.setFault_input (s : State) (c : Option Byte) : (s.setFault c).input = s.input := rfl
@[simp] theorem State.setFault_regs (s : State) (c : Option Byte) : (s.setFault c).regs = s.regs := rfl
@[simp] theorem State.setFault_written (s : State) (c : Option Byte) : (s.setFault c).written = s.written := rfl
@[simp] theorem State.setFault_pc (s : State) (c : Option Byte) : (s.setFault c).pc = s.pc := rfl
@[simp] theorem State.setFault_dir (s : State) (c : Option Byte) : (s.setFault c).dir = s.dir := rfl
@[simp] theorem State.setFault_fns (s : State) (c : Option Byte) : (s.setFault c).fns = s.fns := rfl
@[simp] theorem State.setFault_tryLatch (s : State) (c : Option Byte) : (s.setFault c).tryLatch = s.tryLatch := rfl
@[simp] theorem State.setFault_stack (s : State) (c : Option Byte) : (s.setFault c).stack = s.stack := rfl
@[simp] theorem State.setFault_icur (s : State) (c : Option Byte) : (s.setFault c).icur = s.icur := rfl
@[simp] theorem State.setFault_out (s : State) (c : Option Byte) : (s.setFault c).out = s.out := rfl
@[simp] theorem State.setFault_mode (s : State) (c : Option Byte) : (s.setFault c).mode = s.mode := rfl
@[simp] theorem State.setFault_fault (s : State) (c : Option Byte) : (s.setFault c).fault = c := rfl
@[simp] theorem State.setFault_reg (s : State) (c : Option Byte) (j : Byte) : (s.setFault c).reg j = s.reg j := rfl
@[simp] theorem State.setFault_wasWritten (s : State) (c : Option Byte) (j : Byte) : (s.setFault c).wasWritten j = s.wasWritten j := rfl
@[simp] theorem State.setFault_readable (s : State) (c : Option Byte) (j : Byte) : (s.setFault c).readable j = s.readable j := rfl
@[simp] theorem State.setFault_fn (s : State) (c : Option Byte) (j : Byte) : (s.setFault c).fn j = s.fn j := rfl
@[simp] theorem State.setFault_inPeek (s : State) (c : Option Byte) : (s.setFault c).inPeek = s.inPeek := rfl
@[simp] theorem State.setFault_stackFull (s : State) (c : Option Byte) : (s.setFault c).stackFull = s.stackFull := rfl
@[simp] theorem State.setFault_isRunning (s : State) (c : Option Byte) : (s.setFault c).isRunning = s.isRunning := rfl

/-! `advance` -/

@[simp] theorem advance_params (s : State) : (advance s).params = s.params := rfl
@[simp] theorem advance_width (s : State) : (advance s).width = s.width := rfl
@[simp] theorem advance_height (s : State) : (advance s).height = s.height := rfl
@[simp] theorem advance_mem (s : State) : (advance s).mem = s.mem := rfl
@[simp] theorem advance_input (s : State) : (advance s).input = s.input := rfl
@[simp] theorem advance_regs (s : State) : (advance s).regs = s.regs := rfl
@[simp] theorem advance_written (s : State) : (advance s).written = s.written := rfl
@[simp] theorem advance_pc (s : State) : (advance s).pc = nextLoc s s.pc := rfl
@[simp] theorem advance_dir (s : State) : (advance s).dir = s.dir := rfl
@[simp] theorem advance_fns (s : State) : (advance s).fns = s.fns := rfl
@[simp] theorem advance_tryLatch (s : State) : (advance s).tryLatch = s.tryLatch := rfl
@[simp] theorem advance_stack (s : State) : (advance s).stack = s.stack := rfl
@[simp] theorem advance_icur (s : State) : (advance s).icur = s.icur := rfl
@[simp] theorem advance_out (s : State) : (advance s).out = s.out := rfl
@[simp] theorem advance_mode (s : State) : (advance s).mode = s.mode := rfl
@[simp] theorem advance_fault (s : State) : (advance s).fault = s.fault := rfl
@[simp] theorem advance_reg (s : State) (j : Byte) : (advance s).reg j = s.reg j := rfl
@[simp] theorem advance_wasWritten (s : State) (j : Byte) : (advance s).wasWritten j = s.wasWritten j := rfl
@[simp] theorem advance_readable (s : State) (j : Byte) : (advance s).readable j = s.readable j := rfl
@[simp] theorem advance_fn (s : State) (j : Byte) : (advance s).fn j = s.fn j := rfl
@[simp] theorem advance_inPeek (s : State) : (advance s).inPeek = s.inPeek := rfl
@[simp] theorem advance_stackFull (s : State) : (advance s).stackFull = s.stackFull := rfl
@[simp] theorem advance_isRunning (s : State) : (advance s).isRunning = s.isRunning := rfl

/-! `recover` -/

@[simp] theorem recover_params (h : TryHandler) (c : Byte) (s : State) : (recover h c s).params = s.params := rfl
@[simp] theorem recover_width (h : TryHandler) (c : Byte) (s : State) : (recover h c s).width = s.width := rfl
@[simp] theorem recover_height (h : TryHandler) (c : Byte) (s : State) : (recover h c s).height = s.height := rfl
@[simp] theorem recover_mem (h : TryHandler) (c : Byte) (s : State) : (recover h c s).mem = s.mem := rfl
@[simp] theorem recover_input (h : TryHandler) (c : Byte) (s : State) : (recover h c s).input = s.input := rfl
@[simp] theorem recover_regs (h : TryHandler) (c : Byte) (s : State) : (recover h c s).regs = s.regs.set h.dest.toNat c h.dest.isLt := rfl
@[simp] theorem recover_written (h : TryHandler) (c : Byte) (s : State) : (recover h c s).written = s.written.set h.dest.toNat true h.dest.isLt := rfl
@[simp] theorem recover_pc (h : TryHandler) (c : Byte) (s : State) : (recover h c s).pc = h.loc := rfl
@[simp] theorem recover_dir (h : TryHandler) (c : Byte) (s : State) : (recover h c s).dir = s.dir := rfl
@[simp] theorem recover_fns (h : TryHandler) (c : Byte) (s : State) : (recover h c s).fns = s.fns := rfl
@[simp] theorem recover_tryLatch (h : TryHandler) (c : Byte) (s : State) : (recover h c s).tryLatch = none := rfl
@[simp] theorem recover_stack (h : TryHandler) (c : Byte) (s : State) : (recover h c s).stack = s.stack := rfl
@[simp] theorem recover_icur (h : TryHandler) (c : Byte) (s : State) : (recover h c s).icur = s.icur := rfl
@[simp] theorem recover_out (h : TryHandler) (c : Byte) (s : State) : (recover h c s).out = s.out := rfl
@[simp] theorem recover_mode (h : TryHandler) (c : Byte) (s : State) : (recover h c s).mode = s.mode := rfl
@[simp] theorem recover_fault (h : TryHandler) (c : Byte) (s : State) : (recover h c s).fault = s.fault := rfl
@[simp] theorem recover_fn (h : TryHandler) (c : Byte) (s : State) (j : Byte) : (recover h c s).fn j = s.fn j := rfl
@[simp] theorem recover_inPeek (h : TryHandler) (c : Byte) (s : State) : (recover h c s).inPeek = s.inPeek := rfl
@[simp] theorem recover_stackFull (h : TryHandler) (c : Byte) (s : State) : (recover h c s).stackFull = s.stackFull := rfl
@[simp] theorem recover_isRunning (h : TryHandler) (c : Byte) (s : State) : (recover h c s).isRunning = s.isRunning := rfl

/-! `fatal` -/

@[simp] theorem fatal_params (c : Byte) (s : State) : (fatal c s).params = s.params := rfl
@[simp] theorem fatal_width (c : Byte) (s : State) : (fatal c s).width = s.width := rfl
@[simp] theorem fatal_height (c : Byte) (s : State) : (fatal c s).height = s.height := rfl
@[simp] theorem fatal_mem (c : Byte) (s : State) : (fatal c s).mem = s.mem := rfl
@[simp] theorem fatal_input (c : Byte) (s : State) : (fatal c s).input = s.input := rfl
@[simp] theorem fatal_regs (c : Byte) (s : State) : (fatal c s).regs = s.regs := rfl
@[simp] theorem fatal_written (c : Byte) (s : State) : (fatal c s).written = s.written := rfl
@[simp] theorem fatal_pc (c : Byte) (s : State) : (fatal c s).pc = s.pc := rfl
@[simp] theorem fatal_dir (c : Byte) (s : State) : (fatal c s).dir = s.dir := rfl
@[simp] theorem fatal_fns (c : Byte) (s : State) : (fatal c s).fns = s.fns := rfl
@[simp] theorem fatal_tryLatch (c : Byte) (s : State) : (fatal c s).tryLatch = s.tryLatch := rfl
@[simp] theorem fatal_stack (c : Byte) (s : State) : (fatal c s).stack = s.stack := rfl
@[simp] theorem fatal_icur (c : Byte) (s : State) : (fatal c s).icur = s.icur := rfl
@[simp] theorem fatal_out (c : Byte) (s : State) : (fatal c s).out = s.out := rfl
@[simp] theorem fatal_mode (c : Byte) (s : State) : (fatal c s).mode = .failed := rfl
@[simp] theorem fatal_fault (c : Byte) (s : State) : (fatal c s).fault = some c := rfl
@[simp] theorem fatal_reg (c : Byte) (s : State) (j : Byte) : (fatal c s).reg j = s.reg j := rfl
@[simp] theorem fatal_wasWritten (c : Byte) (s : State) (j : Byte) : (fatal c s).wasWritten j = s.wasWritten j := rfl
@[simp] theorem fatal_readable (c : Byte) (s : State) (j : Byte) : (fatal c s).readable j = s.readable j := rfl
@[simp] theorem fatal_fn (c : Byte) (s : State) (j : Byte) : (fatal c s).fn j = s.fn j := rfl
@[simp] theorem fatal_inPeek (c : Byte) (s : State) : (fatal c s).inPeek = s.inPeek := rfl
@[simp] theorem fatal_stackFull (c : Byte) (s : State) : (fatal c s).stackFull = s.stackFull := rfl

/-! `hostReset` -/

@[simp] theorem hostReset_params (s : State) : (hostReset s).params = s.params := rfl
@[simp] theorem hostReset_width (s : State) : (hostReset s).width = s.width := rfl
@[simp] theorem hostReset_height (s : State) : (hostReset s).height = s.height := rfl
@[simp] theorem hostReset_mem (s : State) : (hostReset s).mem = s.mem := rfl
@[simp] theorem hostReset_input (s : State) : (hostReset s).input = s.input := rfl
@[simp] theorem hostReset_regs (s : State) : (hostReset s).regs = Vector.replicate 256 0#8 := rfl
@[simp] theorem hostReset_written (s : State) : (hostReset s).written = Vector.replicate 256 false := rfl
@[simp] theorem hostReset_pc (s : State) : (hostReset s).pc = ⟨0, 0⟩ := rfl
@[simp] theorem hostReset_dir (s : State) : (hostReset s).dir = .east := rfl
@[simp] theorem hostReset_fns (s : State) : (hostReset s).fns = Vector.replicate 256 none := rfl
@[simp] theorem hostReset_tryLatch (s : State) : (hostReset s).tryLatch = none := rfl
@[simp] theorem hostReset_stack (s : State) : (hostReset s).stack = [] := rfl
@[simp] theorem hostReset_icur (s : State) : (hostReset s).icur = 0 := rfl
@[simp] theorem hostReset_out (s : State) : (hostReset s).out = [] := rfl
@[simp] theorem hostReset_mode (s : State) : (hostReset s).mode = .idle := rfl
@[simp] theorem hostReset_fault (s : State) : (hostReset s).fault = none := rfl

/-! `hostRun` -/

@[simp] theorem hostRun_params (s : State) : (hostRun s).params = s.params := rfl
@[simp] theorem hostRun_width (s : State) : (hostRun s).width = s.width := rfl
@[simp] theorem hostRun_height (s : State) : (hostRun s).height = s.height := rfl
@[simp] theorem hostRun_mem (s : State) : (hostRun s).mem = s.mem := rfl
@[simp] theorem hostRun_input (s : State) : (hostRun s).input = s.input := rfl
@[simp] theorem hostRun_regs (s : State) : (hostRun s).regs = Vector.replicate 256 0#8 := rfl
@[simp] theorem hostRun_written (s : State) : (hostRun s).written = Vector.replicate 256 false := rfl
@[simp] theorem hostRun_pc (s : State) : (hostRun s).pc = ⟨0, 0⟩ := rfl
@[simp] theorem hostRun_dir (s : State) : (hostRun s).dir = .east := rfl
@[simp] theorem hostRun_fns (s : State) : (hostRun s).fns = Vector.replicate 256 none := rfl
@[simp] theorem hostRun_tryLatch (s : State) : (hostRun s).tryLatch = none := rfl
@[simp] theorem hostRun_stack (s : State) : (hostRun s).stack = [] := rfl
@[simp] theorem hostRun_icur (s : State) : (hostRun s).icur = 0 := rfl
@[simp] theorem hostRun_out (s : State) : (hostRun s).out = [] := rfl
@[simp] theorem hostRun_mode (s : State) : (hostRun s).mode = .running := rfl
@[simp] theorem hostRun_fault (s : State) : (hostRun s).fault = none := rfl

/-! `State.initial` -/

@[simp] theorem State.initial_params (p : Params) (w h : Nat) (m : Memory) (inp : List Byte) :
    (State.initial p w h m inp).params = p := rfl
@[simp] theorem State.initial_width (p : Params) (w h : Nat) (m : Memory) (inp : List Byte) :
    (State.initial p w h m inp).width = w := rfl
@[simp] theorem State.initial_height (p : Params) (w h : Nat) (m : Memory) (inp : List Byte) :
    (State.initial p w h m inp).height = h := rfl
@[simp] theorem State.initial_mem (p : Params) (w h : Nat) (m : Memory) (inp : List Byte) :
    (State.initial p w h m inp).mem = m := rfl
@[simp] theorem State.initial_input (p : Params) (w h : Nat) (m : Memory) (inp : List Byte) :
    (State.initial p w h m inp).input = inp := rfl
@[simp] theorem State.initial_regs (p : Params) (w h : Nat) (m : Memory) (inp : List Byte) :
    (State.initial p w h m inp).regs = Vector.replicate 256 0#8 := rfl
@[simp] theorem State.initial_written (p : Params) (w h : Nat) (m : Memory) (inp : List Byte) :
    (State.initial p w h m inp).written = Vector.replicate 256 false := rfl
@[simp] theorem State.initial_pc (p : Params) (w h : Nat) (m : Memory) (inp : List Byte) :
    (State.initial p w h m inp).pc = ⟨0, 0⟩ := rfl
@[simp] theorem State.initial_dir (p : Params) (w h : Nat) (m : Memory) (inp : List Byte) :
    (State.initial p w h m inp).dir = .east := rfl
@[simp] theorem State.initial_fns (p : Params) (w h : Nat) (m : Memory) (inp : List Byte) :
    (State.initial p w h m inp).fns = Vector.replicate 256 none := rfl
@[simp] theorem State.initial_tryLatch (p : Params) (w h : Nat) (m : Memory) (inp : List Byte) :
    (State.initial p w h m inp).tryLatch = none := rfl
@[simp] theorem State.initial_stack (p : Params) (w h : Nat) (m : Memory) (inp : List Byte) :
    (State.initial p w h m inp).stack = [] := rfl
@[simp] theorem State.initial_icur (p : Params) (w h : Nat) (m : Memory) (inp : List Byte) :
    (State.initial p w h m inp).icur = 0 := rfl
@[simp] theorem State.initial_out (p : Params) (w h : Nat) (m : Memory) (inp : List Byte) :
    (State.initial p w h m inp).out = [] := rfl
@[simp] theorem State.initial_mode (p : Params) (w h : Nat) (m : Memory) (inp : List Byte) :
    (State.initial p w h m inp).mode = .idle := rfl
@[simp] theorem State.initial_fault (p : Params) (w h : Nat) (m : Memory) (inp : List Byte) :
    (State.initial p w h m inp).fault = none := rfl

end Sys2Proof.Machine
end

