-- ==== Sys2Proof/Laws/Ops.lean ====
section
/-! SUPPORT. What each shared operation can do, said once: register and slot accesses, the address-wrap unit, reading
a register inside an instruction, the end of a step, and taking a failure. -/

namespace Sys2Proof.Machine

/-! ### Registers and slots -/

theorem Byte.toNat_inj {i j : Byte} : i.toNat = j.toNat ↔ i = j := BitVec.toNat_inj

/-- Read after write of a register; no register is an alias of another (R10). -/
@[simp] theorem State.reg_setReg (s : State) (i v j : Byte) :
    (s.setReg i v).reg j = if i = j then v else s.reg j := by
  simp only [State.reg, State.setReg, Vector.getElem_set, Byte.toNat_inj]

@[simp] theorem State.wasWritten_setReg (s : State) (i v j : Byte) :
    (s.setReg i v).wasWritten j = if i = j then true else s.wasWritten j := by
  simp only [State.wasWritten, State.setReg, Vector.getElem_set, Byte.toNat_inj]

@[simp] theorem State.fn_setFn (s : State) (i : Byte) (f : FnSlot) (j : Byte) :
    (s.setFn i f).fn j = if i = j then some f else s.fn j := by
  simp only [State.fn, State.setFn, Vector.getElem_set, Byte.toNat_inj]

@[simp] theorem reg_recover (h : TryHandler) (c : Byte) (s : State) (j : Byte) :
    (recover h c s).reg j = if h.dest = j then c else s.reg j := by
  simp only [recover, State.setTry_reg, State.reg_setReg, State.setPc_reg]

@[simp] theorem State.reg_initial (p : Params) (w h : Nat) (m : Memory) (inp : List Byte) (j : Byte) :
    (State.initial p w h m inp).reg j = 0#8 := by
  simp [State.reg, State.initial]

@[simp] theorem State.fn_initial (p : Params) (w h : Nat) (m : Memory) (inp : List Byte) (j : Byte) :
    (State.initial p w h m inp).fn j = none := by
  simp [State.fn, State.initial]

/-- Two states with the same register at every index have the same register file. -/
theorem State.regs_ext {s t : State} (h : ∀ i, s.reg i = t.reg i) : s.regs = t.regs := by
  apply Vector.ext
  intro i hi
  simpa [State.reg, Nat.mod_eq_of_lt hi] using h (BitVec.ofNat 8 i)

/-- Under the default policy every register can be read (R10). -/
theorem State.readable_of_zero {s : State} (h : s.params.regInit = .zero) (i : Byte) : s.readable i = true := by
  simp [State.readable, h]

/-- A written register can be read under either policy (R10). -/
theorem State.readable_of_written {s : State} {i : Byte} (h : s.wasWritten i = true) : s.readable i = true := by
  unfold State.readable
  split
  · rfl
  · exact h

/-! ### The address-wrap unit -/

theorem wrapCoord_lt {n : Nat} (hn : 0 < n) (c : Nat) (d : Int) (k : Nat) : wrapCoord n c d k < n := by
  have h1 := Int.emod_nonneg ((c : Int) + ((n : Int) + d) * (k : Int)) (b := (n : Int)) (by omega)
  have h2 := Int.emod_lt_of_pos ((c : Int) + ((n : Int) + d) * (k : Int)) (b := (n : Int)) (by omega)
  unfold wrapCoord
  omega

theorem wrapCoord_cast {n : Nat} (hn : 0 < n) (c : Nat) (d : Int) (k : Nat) :
    (wrapCoord n c d k : Int) = ((c : Int) + ((n : Int) + d) * (k : Int)) % (n : Int) := by
  have h1 := Int.emod_nonneg ((c : Int) + ((n : Int) + d) * (k : Int)) (b := (n : Int)) (by omega)
  unfold wrapCoord
  omega

theorem wrapCoord_zero {n c : Nat} (hc : c < n) (d : Int) : wrapCoord n c d 0 = c := by
  have h := Int.emod_eq_of_lt (a := (c : Int)) (b := (n : Int)) (by omega) (by omega)
  simp [wrapCoord, h]

/-- The address-wrap unit's result depends on a state's dimensions and direction only. -/
theorem gridLoc_congr {s t : State} (hw : s.width = t.width) (hh : s.height = t.height) (hd : s.dir = t.dir)
    (L : Loc) (k : Nat) : gridLoc s L k = gridLoc t L k := by
  simp only [gridLoc, hw, hh, hd]

theorem gridLoc_inGrid {s : State} (hw : 0 < s.width) (hh : 0 < s.height) (L : Loc) (k : Nat) :
    s.InGrid (gridLoc s L k) :=
  ⟨wrapCoord_lt hw _ _ _, wrapCoord_lt hh _ _ _⟩

theorem pixelAt_congr {s t : State} (hw : s.width = t.width) (hm : s.mem = t.mem) (L : Loc) :
    pixelAt s L = pixelAt t L := by
  simp only [pixelAt, hw, hm]

theorem lookahead_congr {s t : State} (hw : s.width = t.width) (hh : s.height = t.height) (hm : s.mem = t.mem)
    (hd : s.dir = t.dir) (hp : s.pc = t.pc) : lookahead s = lookahead t := by
  simp only [lookahead, gridRead, hp, gridLoc_congr hw hh hd, pixelAt_congr hw hm]

/-- A fetch from a grid with a cell succeeds (R71). -/
theorem fetch_eq {s : State} (hw : 0 < s.width) (hh : 0 < s.height) : fetch s = some (gridRead s s.pc 0) := by
  have h : ¬(s.width = 0 ∨ s.height = 0) := by omega
  simp only [fetch, h, if_false]

/-- The fetched cell is the one under the cursor (R71). -/
theorem fetch_pixelAt {s : State} (h : s.InGrid s.pc) : fetch s = some (pixelAt s s.pc) := by
  have hL : gridLoc s s.pc 0 = s.pc := by simp only [gridLoc, wrapCoord_zero h.1, wrapCoord_zero h.2]
  rw [fetch_eq (Nat.zero_lt_of_lt h.1) (Nat.zero_lt_of_lt h.2), gridRead, hL]

/-- A constructed grid gives back the cells it was built from (R22). -/
theorem pixelAt_ofGrid {s : State} {grid : Nat → Nat → Pixel} (hm : s.mem = Memory.ofGrid s.width s.height grid)
    {L : Loc} (h : s.InGrid L) : pixelAt s L = grid L.x L.y := by
  obtain ⟨hx, hy⟩ := h
  have hlt : L.y * s.width + L.x < s.width * s.height := by
    calc L.y * s.width + L.x < L.y * s.width + s.width := by omega
      _ = (L.y + 1) * s.width := by ring
      _ ≤ s.height * s.width := Nat.mul_le_mul_right _ hy
      _ = s.width * s.height := Nat.mul_comm _ _
  have hmod : (L.y * s.width + L.x) % s.width = L.x := by
    rw [Nat.add_comm, Nat.add_mul_mod_self_right, Nat.mod_eq_of_lt hx]
  have hdiv : (L.y * s.width + L.x) / s.width = L.y := by
    rw [Nat.add_comm, Nat.add_mul_div_right _ _ (Nat.zero_lt_of_lt hx), Nat.div_eq_of_lt hx, Nat.zero_add]
  have hbyte : ∀ k, k < 3 → Memory.read s.mem (pixelAddr s.width L + k) =
      gridByte s.width grid (3 * (L.y * s.width + L.x) + k) := by
    intro k hk
    have hb : pixelAddr s.width L + k < 3 * (s.width * s.height) := by unfold pixelAddr; omega
    rw [hm, Memory.read_ofGrid, if_pos hb]; rfl
  have h0 := hbyte 0 (by omega)
  have h1 := hbyte 1 (by omega)
  have h2 := hbyte 2 (by omega)
  have d0 : (3 * (L.y * s.width + L.x) + 0) / 3 = L.y * s.width + L.x := by omega
  have d1 : (3 * (L.y * s.width + L.x) + 1) / 3 = L.y * s.width + L.x := by omega
  have d2 : (3 * (L.y * s.width + L.x) + 2) / 3 = L.y * s.width + L.x := by omega
  have m0 : (3 * (L.y * s.width + L.x) + 0) % 3 = 0 := by omega
  have m1 : (3 * (L.y * s.width + L.x) + 1) % 3 = 1 := by omega
  have m2 : (3 * (L.y * s.width + L.x) + 2) % 3 = 2 := by omega
  simp only [gridByte, d0, m0, hmod, hdiv] at h0
  simp only [gridByte, d1, m1, hmod, hdiv] at h1
  simp only [gridByte, d2, m2, hmod, hdiv] at h2
  simp only [Nat.add_zero] at h0
  simp only [pixelAt, h0, h1, h2]

/-! ### Reading a register inside an instruction -/

/-- A register read that has an outcome goes on with the register's value. -/
theorem withReg_next {i : Byte} {s t : State} {k : Byte → Host.Outcome State Fault Refusal}
    (h : withReg i s k = .next t) : s.readable i = true ∧ k (s.reg i) = .next t := by
  unfold withReg at h
  split at h
  · exact ⟨‹_›, h⟩
  · cases h

theorem withReg_of_readable {i : Byte} {s : State} {k : Byte → Host.Outcome State Fault Refusal}
    (h : s.readable i = true) : withReg i s k = k (s.reg i) := by
  simp only [withReg, h, if_true]

/-- A register read that stops: the strict policy and a never-written register, or what follows the read. -/
theorem withReg_fault {i : Byte} {s : State} {f : Fault} {k : Byte → Host.Outcome State Fault Refusal}
    (h : withReg i s k = .fault f) :
    (s.readable i = false ∧ f = .unwrittenRead i) ∨ (s.readable i = true ∧ k (s.reg i) = .fault f) := by
  unfold withReg at h
  split at h
  · exact .inr ⟨‹_›, h⟩
  · rename_i hr
    exact .inl ⟨Bool.eq_false_iff.mpr hr, by cases h; rfl⟩

/-- A register read never refuses. -/
theorem withReg_refused {i : Byte} {s : State} {r : Refusal} {k : Byte → Host.Outcome State Fault Refusal}
    (h : withReg i s k = .refused r) : k (s.reg i) = .refused r := by
  unfold withReg at h
  split at h
  · exact h
  · cases h

/-! ### Taking a failure -/

/-- R131: a raised failure is recovered, then the step advances; or it is fatal, without the advance. -/
theorem raiseFailure_cases {c : Byte} {s t : State} (h : raiseFailure c s = .next t) :
    (∃ hd, s.tryLatch = some hd ∧ t = advance (recover hd c s)) ∨ (s.tryLatch = none ∧ t = fatal c s) := by
  unfold raiseFailure at h
  split at h
  · rename_i hd hs
    cases h
    exact .inl ⟨hd, hs, rfl⟩
  · rename_i hs
    cases h
    exact .inr ⟨hs, rfl⟩

theorem raiseFailure_some {s : State} {hd : TryHandler} (h : s.tryLatch = some hd) (c : Byte) :
    raiseFailure c s = .next (advance (recover hd c s)) := by
  simp only [raiseFailure, h, complete]

theorem raiseFailure_none {s : State} (h : s.tryLatch = none) (c : Byte) :
    raiseFailure c s = .next (fatal c s) := by
  simp only [raiseFailure, h]

/-- Taking a failure always gives a next state. -/
theorem raiseFailure_is_next (c : Byte) (s : State) : ∃ t, raiseFailure c s = .next t := by
  cases h : s.tryLatch with
  | none => exact ⟨_, raiseFailure_none h c⟩
  | some hd => exact ⟨_, raiseFailure_some h c⟩

end Sys2Proof.Machine
end

