-- ==== Sys2Proof/Laws/Exec.lean ====
section
/-! SUPPORT. Inversion of exec and step: an execution with a next state is the instruction's own effect followed by
the advance, or a failure the instruction raises, taken. -/

namespace Sys2Proof.Machine

/-- The effect of an instruction that raises nothing, before the advance, one constructor per normal path. -/
inductive Effect (s : State) : Instr → State → Prop where
  | halt : Effect s .halt (s.setMode .halted)
  | setvar (g b : Byte) (ch : Channel) (hsel : selectorChannel s.params g = some ch) :
      Effect s (.setvar g b) (s.setReg b (channelByte (lookahead s) ch))
  | calculate (g b : Byte) (op : CalcOp) (ch : Channel) (res : Byte) (hctl : calcControl g = some (op, ch))
      (hread : s.readable b = true) (hres : calcResult op (s.reg b) (channelByte (lookahead s) ch) = some res) :
      Effect s (.calculate g b) (s.setReg b res)
  | deffn (g b : Byte) : Effect s (.deffn g b) (s.setFn b ⟨s.pc, g⟩)
  | deftry (b : Byte) : Effect s (.deftry b) (s.setTry (some ⟨s.pc, b⟩))
  | ret (L : Loc) (rest : List Loc) (hst : s.stack = L :: rest) : Effect s .ret ((s.setStack rest).setPc L)
  | branchTaken (g b : Byte) (hg : s.readable g = true) (hb : s.readable b = true) (heq : s.reg g = s.reg b) :
      Effect s (.branch g b) (s.setDir s.dir.rotate)
  | branchNot (g b : Byte) (hg : s.readable g = true) (hb : s.readable b = true) (hne : s.reg g ≠ s.reg b) :
      Effect s (.branch g b) s
  | input (b c : Byte) (hin : s.inPeek = some c) : Effect s (.input b) (s.bumpInput.setReg b c)
  | output (b : Byte) (hread : s.readable b = true) (hok : printable (s.reg b) = true) :
      Effect s (.output b) (s.outAppend (s.reg b))
  | call (g b : Byte) (f : FnSlot) (hfn : s.fn b = some f) (hread : s.readable g = true)
      (hroom : s.stackFull = false) :
      Effect s (.call g b) (((s.setReg f.var (s.reg g)).push s.pc).setPc f.loc)
  | nop : Effect s .nop s

/-- The failure an instruction raises, with its code (R130). -/
inductive Raises (s : State) : Instr → Byte → Prop where
  | setvar (g b : Byte) (hsel : selectorChannel s.params g = none) :
      Raises s (.setvar g b) s.params.codeInvalidParameter
  | calcInvalid (g b : Byte) (hctl : calcControl g = none) : Raises s (.calculate g b) s.params.codeInvalidParameter
  | calcDivide (g b : Byte) (op : CalcOp) (ch : Channel) (hctl : calcControl g = some (op, ch))
      (hread : s.readable b = true) (hres : calcResult op (s.reg b) (channelByte (lookahead s) ch) = none) :
      Raises s (.calculate g b) s.params.codeDivideByZero
  | ret (hst : s.stack = []) : Raises s .ret s.params.codeNoFunctionCalled
  | throw (g : Byte) (hread : s.readable g = true) : Raises s (.throw g) (s.reg g)
  | input (b : Byte) (hin : s.inPeek = none) : Raises s (.input b) s.params.codeInputStreamEmpty
  | output (b : Byte) (hread : s.readable b = true) (hbad : printable (s.reg b) = false) :
      Raises s (.output b) s.params.codeOutputNonAscii
  | call (g b : Byte) (hfn : s.fn b = none) : Raises s (.call g b) s.params.codeFunctionUndefined

theorem complete_next {s t : State} (h : complete s = .next t) : t = advance s := by
  cases h; rfl

/-- The inversion of exec. -/
theorem exec_next_cases {i : Instr} {s t : State} (h : exec i s = .next t) :
    (∃ u, Effect s i u ∧ t = advance u) ∨ (∃ c, Raises s i c ∧ raiseFailure c s = .next t) := by
  cases i with
  | halt => exact .inl ⟨_, .halt, complete_next h⟩
  | setvar g b =>
    simp only [exec, execSetvar] at h
    split at h
    · exact .inr ⟨_, .setvar g b ‹_›, h⟩
    · exact .inl ⟨_, .setvar g b _ ‹_›, complete_next h⟩
  | calculate g b =>
    simp only [exec, execCalc] at h
    split at h
    · exact .inr ⟨_, .calcInvalid g b ‹_›, h⟩
    · rename_i op ch hctl
      obtain ⟨hread, hk⟩ := withReg_next h
      split at hk
      · exact .inr ⟨_, .calcDivide g b op ch hctl hread ‹_›, hk⟩
      · exact .inl ⟨_, .calculate g b op ch _ hctl hread ‹_›, complete_next hk⟩
  | deffn g b => exact .inl ⟨_, .deffn g b, complete_next h⟩
  | deftry b => exact .inl ⟨_, .deftry b, complete_next h⟩
  | ret =>
    simp only [exec, execRet] at h
    split at h
    · exact .inr ⟨_, .ret ‹_›, h⟩
    · exact .inl ⟨_, .ret _ _ ‹_›, complete_next h⟩
  | branch g b =>
    simp only [exec, execBranch] at h
    obtain ⟨hg, h1⟩ := withReg_next h
    obtain ⟨hb, h2⟩ := withReg_next h1
    by_cases heq : s.reg g = s.reg b
    · simp only [branchTaken, heq, beq_self_eq_true, if_true] at h2
      exact .inl ⟨_, .branchTaken g b hg hb heq, complete_next h2⟩
    · simp only [branchTaken, beq_iff_eq, heq, if_false] at h2
      exact .inl ⟨_, .branchNot g b hg hb heq, complete_next h2⟩
  | throw g =>
    simp only [exec, execThrow] at h
    obtain ⟨hg, hk⟩ := withReg_next h
    exact .inr ⟨_, .throw g hg, hk⟩
  | input b =>
    simp only [exec, execInput] at h
    split at h
    · exact .inr ⟨_, .input b ‹_›, h⟩
    · exact .inl ⟨_, .input b _ ‹_›, complete_next h⟩
  | output b =>
    simp only [exec, execOutput] at h
    obtain ⟨hb, hk⟩ := withReg_next h
    split at hk
    · exact .inl ⟨_, .output b hb ‹_›, complete_next hk⟩
    · exact .inr ⟨_, .output b hb (Bool.eq_false_iff.mpr ‹_›), hk⟩
  | call g b =>
    simp only [exec, execCall] at h
    split at h
    · exact .inr ⟨_, .call g b ‹_›, h⟩
    · rename_i f hfn
      obtain ⟨hg, hk⟩ := withReg_next h
      split at hk
      · cases hk
      · exact .inl ⟨_, .call g b f hfn hg (Bool.eq_false_iff.mpr ‹_›), complete_next hk⟩
  | nop => exact .inl ⟨_, .nop, complete_next h⟩

/-- The outcomes that an execution can have: a next state, or one of the two stops the optional parameters ask for. -/
def Ends (s : State) (o : Host.Outcome State Fault Refusal) : Prop :=
  (∃ t, o = .next t) ∨ (∃ r, o = .fault (.unwrittenRead r) ∧ s.readable r = false) ∨
  (o = .fault .stackExhausted ∧ s.stackFull = true)

theorem Ends.raise (c : Byte) (s : State) : Ends s (raiseFailure c s) := .inl (raiseFailure_is_next c s)

theorem Ends.withReg {s : State} {i : Byte} {k : Byte → Host.Outcome State Fault Refusal} (h : Ends s (k (s.reg i))) :
    Ends s (withReg i s k) := by
  by_cases hr : s.readable i = true
  · rw [withReg_of_readable hr]
    exact h
  · refine .inr (.inl ⟨i, ?_, Bool.eq_false_iff.mpr hr⟩)
    simp only [Machine.withReg, hr, if_false, Bool.false_eq_true]

/-- Every execution ends so: no instruction refuses, and under the defaults of R4 none stops. -/
theorem exec_ends (i : Instr) (s : State) : Ends s (exec i s) := by
  cases i with
  | halt => exact .inl ⟨_, rfl⟩
  | setvar g b =>
    simp only [exec, execSetvar]
    split
    · exact .raise _ _
    · exact .inl ⟨_, rfl⟩
  | calculate g b =>
    simp only [exec, execCalc]
    split
    · exact .raise _ _
    · refine .withReg ?_
      split
      · exact .raise _ _
      · exact .inl ⟨_, rfl⟩
  | deffn g b => exact .inl ⟨_, rfl⟩
  | deftry b => exact .inl ⟨_, rfl⟩
  | ret =>
    simp only [exec, execRet]
    split
    · exact .raise _ _
    · exact .inl ⟨_, rfl⟩
  | branch g b => exact .withReg (k := fun u => Machine.withReg b s _) (.withReg (.inl ⟨_, rfl⟩))
  | throw g => exact .withReg (k := fun c => raiseFailure c s) (.raise _ _)
  | input b =>
    simp only [exec, execInput]
    split
    · exact .raise _ _
    · exact .inl ⟨_, rfl⟩
  | output b =>
    simp only [exec, execOutput]
    refine .withReg ?_
    split
    · exact .inl ⟨_, rfl⟩
    · exact .raise _ _
  | call g b =>
    simp only [exec, execCall]
    split
    · exact .raise _ _
    · refine .withReg ?_
      split
      · exact .inr (.inr ⟨rfl, ‹_›⟩)
      · exact .inl ⟨_, rfl⟩
  | nop => exact .inl ⟨_, rfl⟩

/-- The inversion of step: a core that is not running stays as it is; a running one executes the cell under the
cursor, or takes the failure of a cell that is no instruction. -/
theorem step_next_cases {s t : State} (h : step s = .next t) :
    (s.mode ≠ .running ∧ t = s) ∨
    (s.mode = .running ∧ ∃ c, fetch s = some c ∧
      ((∃ i, decode s.params c = .instruction i ∧ exec i s = .next t) ∨
       (decode s.params c = .invalid ∧ raiseFailure s.params.codeInvalidInstruction s = .next t))) := by
  unfold step at h
  split at h
  · rename_i hm; cases h; exact .inl ⟨by simp [hm], rfl⟩
  · rename_i hm; cases h; exact .inl ⟨by simp [hm], rfl⟩
  · rename_i hm; cases h; exact .inl ⟨by simp [hm], rfl⟩
  · rename_i hm
    split at h
    · cases h
    · rename_i c hc
      refine .inr ⟨hm, c, hc, ?_⟩
      split at h
      · exact .inl ⟨_, ‹_›, h⟩
      · exact .inr ⟨‹_›, h⟩

end Sys2Proof.Machine
end

