-- ==== Sys2Proof/Laws/PerInstr.lean ====
section
/-! SUPPORT. Per-instruction facts about the syntax. Family DecodedOpcode: a cell that decodes to an instruction has
the opcode byte that the encoder writes for it. -/

namespace Sys2Proof.Laws.DecodedOpcode

def Statement (i : Instr) : Prop := ∀ (p : Params) (c : Pixel), decode p c = .instruction i → c.r = (encode p i).r

theorem halt : Statement .halt := fun _ _ h => decode_opcode h
theorem setvar (g b : Byte) : Statement (.setvar g b) := fun _ _ h => decode_opcode h
theorem calculate (g b : Byte) : Statement (.calculate g b) := fun _ _ h => decode_opcode h
theorem deffn (g b : Byte) : Statement (.deffn g b) := fun _ _ h => decode_opcode h
theorem deftry (b : Byte) : Statement (.deftry b) := fun _ _ h => decode_opcode h
theorem ret : Statement .ret := fun _ _ h => decode_opcode h
theorem branch (g b : Byte) : Statement (.branch g b) := fun _ _ h => decode_opcode h
theorem throw (g : Byte) : Statement (.throw g) := fun _ _ h => decode_opcode h
theorem input (b : Byte) : Statement (.input b) := fun _ _ h => decode_opcode h
theorem output (b : Byte) : Statement (.output b) := fun _ _ h => decode_opcode h
theorem call (g b : Byte) : Statement (.call g b) := fun _ _ h => decode_opcode h
theorem nop : Statement .nop := fun _ _ h => decode_opcode h

end Sys2Proof.Laws.DecodedOpcode
end

