-- ==== Sys2Proof/Tests/Slice0.lean ====
section
/-! SUPPORT. Tests under the spec's test-only assignment REF (D5): the checks of WellFormed, the decoding of words
written out bit by bit, single steps from the vectors of 95_test_vectors.md (named by their ids), and for every
statement with hypotheses a witness that meets them. -/

namespace Sys2Proof.Tests

open Sys2Proof.Machine Sys2Proof.Claims

/-! ### Small states -/

/-- A running instance under REF whose grid holds the listed cells. -/
def mk (w h : Nat) (cells : List (Loc × Pixel)) : State :=
  { State.initial Config.ref w h (cells.foldl (fun m c => storePixel w m c.1 c.2) []) [] with mode := .running }

/-- The next state's value of `f`, `none` for a stop. -/
def after {α : Type} (f : State → α) : Host.Outcome State Fault Refusal → Option α
  | .next s => some (f s)
  | .fault _ => none
  | .refused _ => none

def stopsWith (f : Fault) : Host.Outcome State Fault Refusal → Bool
  | .fault f' => f == f'
  | .next _ => false
  | .refused _ => false

def refusedWith (r : Refusal) : Host.Outcome State Fault Refusal → Bool
  | .refused r' => r == r'
  | .next _ => false
  | .fault _ => false

/-! ### WellFormed: each check refuses an ill-formed term -/

theorem test_ref_wf : Config.ref.wf = true := by decide
theorem test_wf_equal_opcodes : { Config.ref with opcNop := 0x10 }.wf = false := by decide
theorem test_wf_equal_selectors : { Config.ref with sel3 := 1 }.wf = false := by decide
theorem test_wf_stack_limit_zero : { Config.ref with stackLimit := some 0 }.wf = false := by decide
theorem test_wf_equal_codes_allowed : { Config.ref with codeDivideByZero := 0 }.wf = true := by decide
theorem test_wf_no_columns : dimensionsOk 0 1 = false := by decide
theorem test_wf_no_rows : dimensionsOk 1 0 = false := by decide
theorem test_wf_wide_input : inputOk [65, 256] = false := by decide
theorem test_construct_refuses_clash :
    refusedWith .badParameters (construct { Config.ref with sel3 := 1 } 1 1 (fun _ _ => ⟨0, 0, 0⟩) []) = true := by
  decide

/-! ### Decoding: words written out from R50, R51 and REF (D5), opcode byte, `g`, `b` -/

theorem test_decode_halt : decodeTableWord 24 0b00010000_00000000_00000000 = some .halt := by decide
theorem test_decode_setvar : decodeTableWord 24 0b00100000_00000001_00000101 = some (.setvar 1 5) := by decide
theorem test_decode_calculate : decodeTableWord 24 0b00110000_00100011_00000001 = some (.calculate 0x23 1) := by decide
theorem test_decode_deffn : decodeTableWord 24 0b01000000_00000111_00000001 = some (.deffn 7 1) := by decide
theorem test_decode_deftry : decodeTableWord 24 0b01010000_11111111_00001001 = some (.deftry 9) := by decide
theorem test_decode_ret : decodeTableWord 24 0b01100000_00000001_00000010 = some .ret := by decide
theorem test_decode_branch : decodeTableWord 24 0b01110000_00000001_11111111 = some (.branch 1 255) := by decide
theorem test_decode_throw : decodeTableWord 24 0b10000000_00000101_00000001 = some (.throw 5) := by decide
theorem test_decode_input : decodeTableWord 24 0b10010000_00000011_10000000 = some (.input 128) := by decide
theorem test_decode_output : decodeTableWord 24 0b10100000_00000000_00000011 = some (.output 3) := by decide
theorem test_decode_call : decodeTableWord 24 0b10110000_00000100_00000001 = some (.call 4 1) := by decide
theorem test_decode_nop : decodeTableWord 24 0b11000000_11111111_11111111 = some .nop := by decide
theorem test_decode_invalid : decodeTableWord 24 0b00000000_00000000_00000000 = none := by decide
theorem test_decode_too_wide : decodeTableWord 32 0x01100000 = none := by decide
theorem test_placed_word_runs :
    after (fun s => (s.mode, s.pc)) (step (State.reset.withFetchWord 24 0x100000)) = some (.halted, ⟨0, 0⟩) := by decide

/-! ### The address-wrap unit (V-A1 to V-A4, V-A8) -/

theorem test_wrap_VA1 : nextLoc (mk 5 3 []) ⟨4, 1⟩ = ⟨0, 1⟩ := by decide
theorem test_wrap_VA2 : nextLoc ((mk 5 3 []).setDir .west) ⟨0, 1⟩ = ⟨4, 1⟩ := by decide
theorem test_wrap_VA3 : nextLoc ((mk 5 3 []).setDir .south) ⟨2, 2⟩ = ⟨2, 0⟩ := by decide
theorem test_wrap_VA4 : nextLoc ((mk 5 3 []).setDir .north) ⟨2, 0⟩ = ⟨2, 2⟩ := by decide
theorem test_wrap_VA8 : gridLoc (mk 5 3 []) ⟨2, 1⟩ 1 = ⟨3, 1⟩ := by decide

/-! ### Single steps -/

theorem test_invalid_VD1 :
    after (fun s => (s.mode, s.fault, s.pc)) (step (mk 3 1 [])) = some (.failed, some 5, ⟨0, 0⟩) := by decide
theorem test_invalid_VD2 :
    after (fun s => (s.reg 7, s.tryLatch, s.pc, s.mode)) (step ((mk 3 1 []).setTry (some ⟨⟨2, 0⟩, 7⟩))) =
      some (5, none, ⟨0, 0⟩, .running) := by decide

theorem test_setvar_VS8 :
    after (fun s => (s.reg 1, s.pc)) (step ((mk 4 1 [(⟨3, 0⟩, ⟨0x20, 3, 1⟩), (⟨0, 0⟩, ⟨0xC0, 0, 42⟩)]).setPc ⟨3, 0⟩)) =
      some (42, ⟨0, 0⟩) := by decide
theorem test_setvar_VS6 :
    after (fun s => (s.reg 5, s.tryLatch, s.pc))
      (step (((mk 4 1 [(⟨0, 0⟩, ⟨0x20, 4, 5⟩)]).setReg 5 9).setTry (some ⟨⟨3, 0⟩, 5⟩))) =
      some (0, none, ⟨0, 0⟩) := by decide

theorem test_calculate_VC2 :
    after (fun s => (s.reg 1, s.pc))
      (step ((mk 4 1 [(⟨0, 0⟩, ⟨0x30, 0x43, 1⟩), (⟨1, 0⟩, ⟨0xC0, 0, 5⟩)]).setReg 1 3)) = some (254, ⟨1, 0⟩) := by decide
theorem test_calculate_VC18 :
    after (fun s => s.reg 1)
      (step ((mk 4 1 [(⟨0, 0⟩, ⟨0x30, 0x82, 1⟩), (⟨1, 0⟩, ⟨0xC0, 3, 0⟩)]).setReg 1 9)) = some 3 := by decide

theorem test_deffn_VF1 :
    after (fun s => (s.fn 1, s.pc)) (step ((mk 5 5 [(⟨3, 2⟩, ⟨0x40, 7, 1⟩)]).setPc ⟨3, 2⟩)) =
      some (some ⟨⟨3, 2⟩, 7⟩, ⟨4, 2⟩) := by decide

theorem test_call_VF4 :
    after (fun s => (s.reg 3, s.stack, s.pc))
      (step (((((mk 4 4 [(⟨3, 1⟩, ⟨0xB0, 4, 1⟩)]).setFn 1 ⟨⟨0, 0⟩, 3⟩).setReg 4 21).setPc ⟨3, 1⟩).setDir .south)) =
      some (21, [⟨3, 1⟩], ⟨0, 1⟩) := by decide
theorem test_call_VF3 :
    after (fun s => (s.fault, s.stack, s.pc)) (step (mk 4 4 [(⟨0, 0⟩, ⟨0xB0, 4, 2⟩)])) =
      some (some 4, [], ⟨0, 0⟩) := by decide

theorem test_ret_VF9 :
    after (fun s => (s.stack, s.pc)) (step (((mk 4 4 [(⟨0, 0⟩, ⟨0x60, 0, 0⟩)]).setStack [⟨3, 1⟩]).setDir .west)) =
      some ([], ⟨2, 1⟩) := by decide
theorem test_ret_VF6 :
    after (fun s => (s.mode, s.fault)) (step (mk 4 4 [(⟨0, 0⟩, ⟨0x60, 0, 0⟩)])) = some (.failed, some 6) := by decide

theorem test_halt_VH1 :
    after (fun s => (s.mode, s.isRunning, s.pc)) (step ((mk 3 1 [(⟨1, 0⟩, ⟨0x10, 0, 0⟩)]).setPc ⟨1, 0⟩)) =
      some (.halted, false, ⟨2, 0⟩) := by decide

theorem test_branch_VB4 :
    after (fun s => (s.dir, s.pc)) (step (((mk 3 3 [(⟨1, 1⟩, ⟨0x70, 7, 7⟩)]).setPc ⟨1, 1⟩).setDir .west)) =
      some (.north, ⟨1, 0⟩) := by decide
theorem test_branch_VB2 :
    after (fun s => (s.dir, s.pc))
      (step ((((mk 5 2 [(⟨4, 0⟩, ⟨0x70, 1, 2⟩)]).setPc ⟨4, 0⟩).setReg 1 2).setReg 2 3)) =
      some (.east, ⟨0, 0⟩) := by decide

theorem test_nop_VN1 :
    after (fun s => s.pc) (step ((mk 7 1 [(⟨1, 0⟩, ⟨0xC0, 0, 72⟩)]).setPc ⟨1, 0⟩)) = some ⟨2, 0⟩ := by decide

theorem test_deftry_VT2 :
    after (fun s => (s.tryLatch, s.pc)) (step ((mk 3 1 [(⟨0, 0⟩, ⟨0x50, 0, 9⟩)]).setTry (some ⟨⟨2, 0⟩, 4⟩))) =
      some (some ⟨⟨0, 0⟩, 9⟩, ⟨1, 0⟩) := by decide

theorem test_throw_VT3 :
    after (fun s => (s.reg 9, s.tryLatch, s.pc))
      (step ((((mk 3 1 [(⟨2, 0⟩, ⟨0x80, 5, 0⟩)]).setReg 5 200).setTry (some ⟨⟨0, 0⟩, 9⟩)).setPc ⟨2, 0⟩)) =
      some (200, none, ⟨1, 0⟩) := by decide
theorem test_throw_VT8 :
    after (fun s => s.pc)
      (step (((mk 3 3 [(⟨0, 0⟩, ⟨0x80, 1, 0⟩)]).setTry (some ⟨⟨0, 0⟩, 9⟩)).setDir .south)) = some ⟨0, 1⟩ := by decide

theorem test_input_VI1 :
    after (fun s => (s.reg 0, s.icur)) (step { mk 1 1 [(⟨0, 0⟩, ⟨0x90, 0, 0⟩)] with input := [65] }) =
      some (65, 1) := by decide
theorem test_input_VI2 :
    after (fun s => (s.fault, s.icur)) (step { mk 1 1 [(⟨0, 0⟩, ⟨0x90, 0, 0⟩)] with input := [65], icur := 1 }) =
      some (some 2, 1) := by decide

theorem test_output_VO3 :
    after (fun s => s.out) (step ((mk 1 1 [(⟨0, 0⟩, ⟨0xA0, 0, 0⟩)]).setReg 0 126)) = some [126] := by decide
theorem test_output_VO4 :
    after (fun s => (s.out, s.fault)) (step ((mk 1 1 [(⟨0, 0⟩, ⟨0xA0, 0, 0⟩)]).setReg 0 31)) =
      some ([], some 3) := by decide

theorem test_run_VM5 :
    (fun s : State => (s.mode, s.fault, s.icur, s.out, s.reg 9))
      (hostRun { (mk 1 1 []).setReg 9 1 with mode := .failed, fault := some 1, icur := 2, out := [65] }) =
      (.running, none, 0, [], 0) := by decide

theorem test_construct_grid :
    after (fun s => (pixelAt s ⟨1, 0⟩, pixelAt s ⟨0, 1⟩, s.mode))
      (construct Config.ref 2 2 (fun x y => ⟨0xC0, BitVec.ofNat 8 x, BitVec.ofNat 8 y⟩) [65]) =
      some (⟨0xC0, 1, 0⟩, ⟨0xC0, 0, 1⟩, .idle) := by decide

/-! ### Witnesses: the hypotheses of each statement, met together, one per clause -/

/-- A running instance with readable registers, no handler and an unbounded stack. -/
def base : State := mk 3 2 [(⟨0, 0⟩, ⟨0xC0, 0, 0⟩), (⟨1, 0⟩, ⟨0xC0, 7, 0⟩)]

/-- The same with the strict option. -/
def strict : State := { base with params := { Config.ref with regInit := .faultOnUnwrittenRead } }

/-- The same with a handler pending. -/
def armed : State := base.setTry (some ⟨⟨2, 1⟩, 9⟩)

theorem wit_params_wf : base.params.wf = true ∧ Config.ref.wf = true := by decide
theorem wit_DecodeSelects_invalid : (⟨0, 0, 0⟩ : Pixel).r ∉ Config.ref.opcodes := by decide
theorem wit_EncodeOfDecode : decode Config.ref ⟨0x80, 5, 7⟩ = .instruction (.throw 5) := by decide
theorem wit_IgnoredBytes : (0x3F : Byte) &&& 0xE3#8 = 0x23#8 &&& 0xE3#8 := by decide

theorem wit_grid_nonempty : 0 < base.width ∧ 0 < base.height ∧ base.InGrid ⟨2, 1⟩ :=
  ⟨by decide, by decide, by decide, by decide⟩
theorem wit_Next_east : base.dir = .east ∧ 1 < base.height := by decide
theorem wit_Next_west : (base.setDir .west).dir = .west ∧ 1 < base.height := by decide
theorem wit_Next_south : (base.setDir .south).dir = .south ∧ 2 < base.width := by decide
theorem wit_Next_north : (base.setDir .north).dir = .north ∧ 2 < base.width := by decide
theorem wit_Next_one_column :
    (mk 1 3 []).width = 1 ∧ ((mk 1 3 []).dir = .east ∨ (mk 1 3 []).dir = .west) ∧ 2 < (mk 1 3 []).height := by decide
theorem wit_Next_one_row :
    ((mk 3 1 []).setDir .north).height = 1 ∧ ((mk 3 1 []).setDir .north).dir = .north ∧ 2 < (mk 3 1 []).width := by
  decide

theorem wit_StepDoesNothing : State.reset.mode ≠ .running := by decide
theorem wit_StepDoesNothing_failed : (fatal 4 base).mode ≠ .running := by decide
theorem wit_StepRuns :
    base.mode = .running ∧ base.InGrid base.pc ∧ decode base.params (pixelAt base base.pc) = .instruction .nop :=
  ⟨by decide, ⟨by decide, by decide⟩, by decide⟩
theorem wit_InvalidCell :
    (base.setPc ⟨2, 0⟩).mode = .running ∧ (base.setPc ⟨2, 0⟩).InGrid ⟨2, 0⟩ ∧
      (pixelAt (base.setPc ⟨2, 0⟩) ⟨2, 0⟩).r ∉ base.params.opcodes :=
  ⟨by decide, ⟨by decide, by decide⟩, by decide⟩
theorem wit_PlacedWord :
    0 < State.reset.width ∧ 0 < State.reset.height ∧ Memory.wf State.reset.mem = true ∧
      decode State.reset.params (unpackPixel (0x700102 % 2 ^ 24)) = .instruction (.branch 1 2) := by decide

theorem wit_latch_pending : armed.tryLatch = some ⟨⟨2, 1⟩, 9⟩ := by decide
theorem wit_latch_empty : base.tryLatch = none := by decide

theorem wit_ThrowIsLike_setvar :
    (base.setReg 1 0).reg 1 = base.params.codeInvalidParameter ∧ (4 : Byte) ∉ base.params.selectors := by decide
theorem wit_ThrowIsLike_divide :
    (base.setReg 1 1).reg 1 = base.params.codeDivideByZero ∧ (0x83 : Byte).toNat / 32 = 4 ∧
      (0x83 : Byte).toNat % 4 ≠ 0 ∧ nthChannel (aheadPixel (base.setReg 1 1)) ((0x83 : Byte).toNat % 4) = 0 := by decide
theorem wit_ThrowIsLike_input :
    (base.setReg 1 2).reg 1 = base.params.codeInputStreamEmpty ∧ base.input.length ≤ base.icur := by decide
theorem wit_ThrowIsLike_output :
    (base.setReg 1 3).reg 1 = base.params.codeOutputNonAscii ∧ ((base.setReg 1 3).reg 2).toNat < 32 := by decide
theorem wit_ThrowIsLike_call :
    (base.setReg 1 4).reg 1 = base.params.codeFunctionUndefined ∧ (base.setReg 1 4).fn 255 = none := by decide
theorem wit_ThrowIsLike_invalid : (base.setReg 1 5).reg 1 = base.params.codeInvalidInstruction := by decide
theorem wit_ThrowIsLike_ret :
    (base.setReg 1 6).reg 1 = base.params.codeNoFunctionCalled ∧ (base.setReg 1 6).stack = [] := by decide

theorem wit_readable : base.readable 0 = true ∧ base.readable 255 = true := by decide
theorem wit_readable_strict : (strict.setReg 255 0).readable 255 = true := by decide
theorem wit_Setvar_selectors :
    (1 : Byte) = base.params.sel1 ∧ (2 : Byte) = base.params.sel2 ∧ (3 : Byte) = base.params.sel3 ∧
      (0 : Byte) ∉ base.params.selectors := by decide
theorem wit_Calculate_invalid :
    (0x20 : Byte).toNat % 4 = 0 ∧ (0x03 : Byte).toNat / 32 = 0 ∧ 5 ≤ (0xA3 : Byte).toNat / 32 := by decide
theorem wit_Calculate_operators :
    (0x21 : Byte).toNat / 32 = 1 ∧ (0x41 : Byte).toNat / 32 = 2 ∧ (0x61 : Byte).toNat / 32 = 3 ∧
      (0x9F : Byte).toNat / 32 = 4 ∧ (0x9F : Byte).toNat % 4 ≠ 0 := by decide
theorem wit_Calculate_divisor :
    (nthChannel (aheadPixel base) 2).toNat ≠ 0 ∧ (nthChannel (aheadPixel base) 3).toNat = 0 := by decide
theorem wit_Call_unbound : base.fn 0 = none := by decide
theorem wit_Call_bound :
    (base.setFn 255 ⟨⟨1, 1⟩, 3⟩).fn 255 = some ⟨⟨1, 1⟩, 3⟩ ∧ HasRoom (base.setFn 255 ⟨⟨1, 1⟩, 3⟩) :=
  ⟨by decide, fun _ h => by cases h⟩
theorem wit_Call_room_under_limit :
    HasRoom { base with params := { Config.ref with stackLimit := some 2 }, stack := [⟨0, 0⟩] } :=
  fun _ h => by cases h; decide
theorem wit_Call_full :
    (base.setFn 1 ⟨⟨1, 1⟩, 3⟩).fn 1 = some ⟨⟨1, 1⟩, 3⟩ ∧
      { Config.ref with stackLimit := some 1 }.stackLimit = some 1 ∧ 1 ≤ (base.push ⟨0, 0⟩).stack.length := by decide
theorem wit_Return : base.stack = [] ∧ (base.push ⟨2, 1⟩).stack = [⟨2, 1⟩] := by decide
theorem wit_Branch : base.reg 1 = base.reg 2 ∧ (base.setReg 1 1).reg 1 ≠ (base.setReg 1 1).reg 2 := by decide
theorem wit_Input : ∃ s : State, s.icur < s.input.length ∧ s.input.length ≤ s.bumpInput.icur :=
  ⟨{ base with input := [65] }, by decide, by decide⟩
theorem wit_Output :
    32 ≤ ((base.setReg 1 32).reg 1).toNat ∧ ((base.setReg 1 126).reg 1).toNat ≤ 126 ∧
      ((base.setReg 1 31).reg 1).toNat < 32 ∧ 126 < ((base.setReg 1 127).reg 1).toNat := by decide
theorem wit_UnwrittenRead :
    strict.params.regInit = .faultOnUnwrittenRead ∧ strict.wasWritten 0 = false ∧
      (strict.setReg 1 5).wasWritten 1 = true ∧ (strict.setFn 2 ⟨⟨0, 0⟩, 3⟩).fn 2 ≠ none ∧
      (0x21 : Byte).toNat % 4 ≠ 0 ∧ 1 ≤ (0x21 : Byte).toNat / 32 ∧ (0x83 : Byte).toNat / 32 ≤ 4 := by decide

/-! Steps that change what the whole-machine rules speak of. -/

theorem wit_RegistersChange :
    ∃ s t : State, step s = .next t ∧ t.reg 5 ≠ s.reg 5 :=
  ⟨mk 2 1 [(⟨0, 0⟩, ⟨0x20, 1, 5⟩), (⟨1, 0⟩, ⟨200, 0, 0⟩)], _, rfl, by decide⟩
theorem wit_RegistersRead :
    ∃ s : State, SameButRegs s { s with regs := (s.setReg 200 7).regs } ∧
      ∀ i, AtInstr s i → ∀ r ∈ registersRead i, s.reg r = ({ s with regs := (s.setReg 200 7).regs } : State).reg r := by
  refine ⟨base, rfl, fun i hi r hr => ?_⟩
  obtain ⟨-, c, hc, hd⟩ := hi
  have h : fetch base = some ⟨0xC0, 0, 0⟩ := by decide
  rw [h] at hc
  cases hc
  have h' : decode base.params ⟨0xC0, 0, 0⟩ = .instruction .nop := by decide
  rw [h'] at hd
  cases hd
  cases hr
theorem wit_Turns : ∃ s t : State, step s = .next t ∧ t.dir ≠ s.dir :=
  ⟨mk 1 1 [(⟨0, 0⟩, ⟨0x70, 1, 2⟩)], _, rfl, by decide⟩
theorem wit_BindsSlot : ∃ s t : State, step s = .next t ∧ t.fn 1 ≠ s.fn 1 :=
  ⟨mk 1 1 [(⟨0, 0⟩, ⟨0x40, 7, 1⟩)], _, rfl, by decide⟩
theorem wit_Arms : ∃ s t : State, step s = .next t ∧ t.tryLatch ≠ s.tryLatch :=
  ⟨mk 1 1 [(⟨0, 0⟩, ⟨0x50, 0, 9⟩)], _, rfl, by decide⟩
theorem wit_Disarms : ∃ s t : State, step s = .next t ∧ t.tryLatch ≠ s.tryLatch ∧ s.tryLatch ≠ none :=
  ⟨(mk 1 1 [(⟨0, 0⟩, ⟨0x80, 5, 0⟩)]).setTry (some ⟨⟨0, 0⟩, 9⟩), _, rfl, by decide, by decide⟩
theorem wit_Pushes : ∃ s t : State, step s = .next t ∧ t.stack ≠ s.stack :=
  ⟨(mk 1 1 [(⟨0, 0⟩, ⟨0xB0, 4, 1⟩)]).setFn 1 ⟨⟨0, 0⟩, 3⟩, _, rfl, by decide⟩
theorem wit_Pops : ∃ s t : State, step s = .next t ∧ t.stack ≠ s.stack ∧ t.stack = [] :=
  ⟨(mk 1 1 [(⟨0, 0⟩, ⟨0x60, 0, 0⟩)]).setStack [⟨0, 0⟩], _, rfl, by decide, by decide⟩
theorem wit_InputMoves : ∃ s t : State, step s = .next t ∧ t.icur ≠ s.icur :=
  ⟨{ mk 1 1 [(⟨0, 0⟩, ⟨0x90, 0, 0⟩)] with input := [65] }, _, rfl, by decide⟩
theorem wit_Appends : ∃ s t : State, step s = .next t ∧ t.out ≠ s.out :=
  ⟨(mk 1 1 [(⟨0, 0⟩, ⟨0xA0, 0, 0⟩)]).setReg 0 32, _, rfl, by decide⟩
theorem wit_CursorFatal : ∃ s t : State, step s = .next t ∧ s.mode = .running ∧ t.mode = .failed :=
  ⟨mk 1 1 [], _, rfl, by decide, by decide⟩
theorem wit_Halts : ∃ s t : State, step s = .next t ∧ s.mode = .running ∧ t.mode = .halted :=
  ⟨mk 1 1 [(⟨0, 0⟩, ⟨0x10, 0, 0⟩)], _, rfl, by decide, by decide⟩
theorem wit_IdleStep : ∃ t : State, step State.reset = .next t ∧ State.reset.mode ≠ .running :=
  ⟨_, rfl, by decide⟩
theorem wit_Commands : ∃ s t : State, commands [.run, .step, .reset, .run, .step] s = .next t :=
  ⟨base, _, rfl⟩
theorem wit_Construct :
    Config.ref.wf = true ∧ ∀ n ∈ [0, 255], n ≤ 255 := by decide
theorem wit_ConstructRefuses :
    { Config.ref with sel3 := 1 }.wf = false ∧ ∃ n ∈ [65, 256], 255 < n := by decide
theorem wit_Transactions :
    ∃ s t : State, construct Config.ref 2 1 (fun _ _ => ⟨0xC0, 0, 0⟩) [65] = .next s ∧
      commands [.run, .step, .step] s = .next t :=
  ⟨_, _, rfl, rfl⟩

/-- An instance in the middle of a run: a handler pending, one call open, one byte out. -/
theorem wit_InvariantStep :
    ∃ s t : State, s.Inv ∧ s.tryLatch ≠ none ∧ s.stack ≠ [] ∧ step s = .next t := by
  refine ⟨{ armed with stack := [⟨2, 1⟩], out := [32, 126] }, _, ?_, by decide, by decide, rfl⟩
  exact
    { params_wf := by decide
      width_pos := by decide
      height_pos := by decide
      mem_wf := by decide
      mem_below := by decide
      pc_in := ⟨by decide, by decide⟩
      fns_in := by
        intro i f h
        simp [State.fn, armed, base, mk, State.initial, State.setTry] at h
      try_in := fun h hh => by cases hh; exact ⟨by decide, by decide⟩
      stack_in := fun L hL => by
        have : L = ⟨2, 1⟩ := by simpa using hL
        subst this
        exact ⟨by decide, by decide⟩
      stack_limit := fun n hn => by cases hn
      icur_le := by decide
      out_printable := by decide
      fault_iff := by decide }

theorem wit_DefaultOptions : base.DefaultOptions ∧ 0 < base.width ∧ 0 < base.height :=
  ⟨⟨by decide, by decide⟩, by decide, by decide⟩
theorem wit_StopsUnwritten :
    stopsWith (.unwrittenRead 5) (step { strict with mem := storePixel 3 [] ⟨0, 0⟩ ⟨0x80, 5, 0⟩ }) = true := by decide
/-- Under the strict option: OUT of a written register goes on, OUT of another stops; under the default both go on. -/
def outOf (r : Byte) : State := { strict.setReg 4 72 with mem := storePixel 3 [] ⟨0, 0⟩ ⟨0xA0, 0, r⟩ }

theorem wit_StrictPolicy_goes_on :
    (outOf 4).params.regInit = .faultOnUnwrittenRead ∧ after State.out (step (outOf 4)) = some [72] ∧
    after State.out (step (underPolicy .zero (outOf 4))) = some [72] := by decide
theorem wit_StrictPolicy_stops :
    (outOf 5).params.regInit = .faultOnUnwrittenRead ∧ stopsWith (.unwrittenRead 5) (step (outOf 5)) = true ∧
    after State.fault (step (underPolicy .zero (outOf 5))) = some (some 3) := by decide
theorem wit_StopsStack :
    stopsWith .stackExhausted
      (step { (mk 1 1 [(⟨0, 0⟩, ⟨0xB0, 4, 1⟩)]).setFn 1 ⟨⟨0, 0⟩, 3⟩ with
        params := { Config.ref with stackLimit := some 1 }, stack := [⟨0, 0⟩] }) = true := by decide
theorem wit_StopsEmptyGrid : stopsWith .emptyGrid (step (mk 0 1 [])) = true := by decide

end Sys2Proof.Tests
end

/-! Proofs: CALL at the call-stack limit (R17, R91, D7). -/

namespace Sys2Proof.Machine

/-- D7: the stack is full exactly when a `STACK_LIMIT` is set and the depth has reached it. -/
theorem State.stackFull_iff {s : State} :
    s.stackFull = true ↔ ∃ n, s.params.stackLimit = some n ∧ n ≤ s.stack.length := by
  unfold State.stackFull
  cases s.params.stackLimit with
  | none => simp
  | some n => simp

/-- R91 past its two checks: with the slot bound and the argument readable, only the room on the stack decides. -/
theorem exec_call_of_bound {s : State} {g b : Byte} {f : FnSlot} (hfn : s.fn b = some f)
    (hread : s.readable g = true) :
    exec (.call g b) s =
      if s.stackFull then .fault .stackExhausted
      else complete (((s.setReg f.var (s.reg g)).push s.pc).setPc f.loc) := by
  simp only [exec, execCall, hfn, withReg_of_readable hread]

end Sys2Proof.Machine

namespace Sys2Proof.Claims

open Sys2Proof.Machine

/-- Settles O21: a limit that the depth has reached makes the stack full, and a CALL of a bound slot then stops. -/
theorem callPastStackLimitStops : Obligations.CallPastStackLimitStops := by
  unfold Obligations.CallPastStackLimitStops
  intro s g b f n hfn hread hlimit hdepth
  have hfull : s.stackFull = true := State.stackFull_iff.mpr ⟨n, hlimit, hdepth⟩
  rw [exec_call_of_bound hfn hread, if_pos hfull]

end Sys2Proof.Claims

/-! Proofs: what one step of a running core can do, in one inversion that every whole-machine statement uses (R77). -/

namespace Sys2Proof.Machine

open Sys2Proof.Claims

/-- What a step that has a next state did, one constructor per way: nothing (R70), an instruction's own effect and the
advance (R74), a recovery and the advance (R132), or a fatal failure without it (R133, R75). -/
inductive StepTo (s : State) : State → Prop where
  | stay (hm : s.mode ≠ .running) : StepTo s s
  | effect (i : Instr) (u : State) (hi : AtInstr s i) (he : Effect s i u) : StepTo s (advance u)
  | recovery (c : Byte) (hd : TryHandler) (hm : s.mode = .running) (hl : s.tryLatch = some hd) :
      StepTo s (advance (recover hd c s))
  | fatal (c : Byte) (hm : s.mode = .running) (hl : s.tryLatch = none) : StepTo s (fatal c s)

theorem StepTo.raise {c : Byte} {s t : State} (hm : s.mode = .running) (h : raiseFailure c s = .next t) :
    StepTo s t := by
  rcases raiseFailure_cases h with ⟨hd, hl, rfl⟩ | ⟨hl, rfl⟩
  · exact .recovery c hd hm hl
  · exact .fatal c hm hl

/-- The inversion of step, the failures already taken. -/
theorem stepTo_of_step {s t : State} (h : step s = .next t) : StepTo s t := by
  rcases step_next_cases h with ⟨hm, rfl⟩ | ⟨hm, c, hc, ⟨i, hi, hx⟩ | ⟨-, hx⟩⟩
  · exact .stay hm
  · rcases exec_next_cases hx with ⟨u, he, rfl⟩ | ⟨_, -, hr⟩
    · exact .effect i u ⟨hm, c, hc, hi⟩ he
    · exact .raise hm hr
  · exact .raise hm hx

/-- R32: `Next` as the address-wrap unit computes it is the Location one cell ahead. -/
theorem nextLoc_eq_aheadLoc (s : State) (L : Loc) : nextLoc s L = aheadLoc s L := by
  simp [nextLoc, gridLoc, wrapCoord, aheadLoc, Int.add_assoc]

/-- R132 with R74: recovery and the advance, as the whole next state. -/
theorem advance_recover (hd : TryHandler) (c : Byte) (s : State) : advance (recover hd c s) = recovered s c hd := by
  have hpc : nextLoc (recover hd c s) hd.loc = aheadLoc s hd.loc := nextLoc_eq_aheadLoc _ _
  simp only [advance, recover_pc, hpc]
  rfl

/-- A command sequence keeps what every command keeps (R27). -/
theorem commands_keep {P : State → Prop} (hstep : ∀ c s t, P s → command c s = .next t → P t) {cs : List Command}
    {s t : State} (hs : P s) (h : commands cs s = .next t) : P t := by
  induction cs generalizing s with
  | nil => cases h; exact hs
  | cons c rest ih =>
    rw [commands] at h
    split at h
    · exact ih (hstep c s _ hs ‹_›) h
    · cases h
    · cases h

end Sys2Proof.Machine

/-! Proofs: the invariant (R28), one lemma per state update, then per step and per command. -/

namespace Sys2Proof.Machine

open Sys2Proof.Claims

namespace State.Inv

variable {s : State}

theorem nextLoc_in (h : s.Inv) (L : Loc) : s.InGrid (nextLoc s L) := gridLoc_inGrid h.width_pos h.height_pos L 1

/-- Outside `Failed` there is no fault (R21). -/
theorem fault_eq_none (h : s.Inv) (hm : s.mode ≠ .failed) : s.fault = none := by
  cases hf : s.fault with
  | none => rfl
  | some c => exact absurd (h.fault_iff.mp (by simp [hf])) hm

theorem setReg (h : s.Inv) (i v : Byte) : (s.setReg i v).Inv := { h with }

theorem setDir (h : s.Inv) (d : Dir) : (s.setDir d).Inv := { h with }

theorem setPc (h : s.Inv) {L : Loc} (hL : s.InGrid L) : (s.setPc L).Inv := { h with pc_in := hL }

theorem advance (h : s.Inv) : (advance s).Inv := h.setPc (h.nextLoc_in s.pc)

theorem setFn (h : s.Inv) (i : Byte) {f : FnSlot} (hf : s.InGrid f.loc) : (s.setFn i f).Inv :=
  { h with
    fns_in := fun j f' hj => by
      rw [State.fn_setFn] at hj
      split at hj
      · cases hj; exact hf
      · exact h.fns_in j f' hj }

theorem setTry_some (h : s.Inv) {hd : TryHandler} (hL : s.InGrid hd.loc) : (s.setTry (some hd)).Inv :=
  { h with try_in := fun _ hh => by cases hh; exact hL }

theorem setTry_none (h : s.Inv) : (s.setTry none).Inv := { h with try_in := fun _ hh => by cases hh }

theorem push (h : s.Inv) {L : Loc} (hL : s.InGrid L) (hroom : s.stackFull = false) : (s.push L).Inv :=
  { h with
    stack_in := List.forall_mem_cons.mpr ⟨hL, h.stack_in⟩
    stack_limit := fun n hn => by
      by_contra hlt
      have hfull : s.stackFull = true := State.stackFull_iff.mpr ⟨n, hn, Nat.le_of_lt_succ (Nat.lt_of_not_le hlt)⟩
      simp [hfull] at hroom }

theorem setStack_tail (h : s.Inv) {L : Loc} {rest : List Loc} (hst : s.stack = L :: rest) :
    (s.setStack rest).Inv :=
  { h with
    stack_in := fun M hM => h.stack_in M (by rw [hst]; exact List.mem_cons_of_mem L hM)
    stack_limit := fun n hn => by
      have hlen := h.stack_limit n hn
      rw [hst, List.length_cons] at hlen
      exact Nat.le_of_succ_le hlen }

theorem bumpInput (h : s.Inv) (hlt : s.icur < s.input.length) : s.bumpInput.Inv := { h with icur_le := hlt }

theorem outAppend (h : s.Inv) {c : Byte} (hc : printable c = true) : (s.outAppend c).Inv :=
  { h with
    out_printable := fun d hd => by
      rcases List.mem_append.mp hd with hold | hnew
      · exact h.out_printable d hold
      · rw [List.mem_singleton.mp hnew]; exact printable_iff.mp hc }

/-- The run state may move between the states that have no fault (R20, R21). -/
theorem setMode (h : s.Inv) (hs : s.mode ≠ .failed) {m : Mode} (hm : m ≠ .failed) : (s.setMode m).Inv :=
  { h with fault_iff := by simp [h.fault_eq_none hs, hm] }

theorem recover (h : s.Inv) {hd : TryHandler} (hl : s.tryLatch = some hd) (c : Byte) : (recover hd c s).Inv :=
  ((h.setPc (h.try_in hd hl)).setReg hd.dest c).setTry_none

theorem fatal (h : s.Inv) (c : Byte) : (fatal c s).Inv := { h with fault_iff := by simp }

end State.Inv

/-- The input byte that `InNext()` would return lies inside `INPUT` (R18). -/
theorem State.inPeek_eq_some {s : State} {c : Byte} :
    s.inPeek = some c ↔ ∃ h : s.icur < s.input.length, s.input[s.icur] = c :=
  List.getElem?_eq_some_iff

/-- R28 for the effect of each instruction, before the advance. -/
theorem Effect.inv {s u : State} {i : Instr} (he : Effect s i u) (hs : s.Inv) (hm : s.mode = .running) : u.Inv := by
  cases he with
  | halt => exact hs.setMode (by simp [hm]) (by decide)
  | setvar g b ch hsel => exact hs.setReg _ _
  | calculate g b op ch res hctl hread hres => exact hs.setReg _ _
  | deffn g b => exact hs.setFn b hs.pc_in
  | deftry b => exact hs.setTry_some hs.pc_in
  | ret L rest hst => exact (hs.setStack_tail hst).setPc (hs.stack_in L (by simp [hst]))
  | branchTaken g b hg hb heq => exact hs.setDir _
  | branchNot g b hg hb hne => exact hs
  | input b c hin =>
    obtain ⟨hlt, -⟩ := State.inPeek_eq_some.mp hin
    exact (hs.bumpInput hlt).setReg _ _
  | output b hread hok => exact hs.outAppend hok
  | call g b f hfn hread hroom => exact ((hs.setReg _ _).push hs.pc_in hroom).setPc (hs.fns_in b f hfn)
  | nop => exact hs

/-- R28: one step keeps the invariant. -/
theorem step_keeps_inv {s t : State} (hs : s.Inv) (h : step s = .next t) : t.Inv := by
  cases stepTo_of_step h with
  | stay hm => exact hs
  | effect i u hi he => exact (he.inv hs hi.1).advance
  | recovery c hd hm hl => exact (hs.recover hl c).advance
  | fatal c hm hl => exact hs.fatal c

/-- R150, R152: a reset state over sound construction data meets the invariant. -/
theorem State.Inv.initial {p : Params} {w h : Nat} {m : Memory} (input : List Byte) (hp : p.wf = true) (hw : 0 < w)
    (hh : 0 < h) (hm : Memory.wf m = true) (hb : Memory.below (3 * (w * h)) m = true) :
    (State.initial p w h m input).Inv where
  params_wf := hp
  width_pos := hw
  height_pos := hh
  mem_wf := hm
  mem_below := hb
  pc_in := ⟨hw, hh⟩
  fns_in i f hf := by simp at hf
  try_in hd hl := by simp at hl
  stack_in L hL := by simp at hL
  stack_limit n hn := by simp
  icur_le := by simp
  out_printable c hc := by simp at hc
  fault_iff := by simp

theorem State.Inv.hostReset {s : State} (h : s.Inv) : (hostReset s).Inv :=
  .initial s.input h.params_wf h.width_pos h.height_pos h.mem_wf h.mem_below

theorem State.Inv.hostRun {s : State} (h : s.Inv) : (hostRun s).Inv := h.hostReset.setMode (by simp) (by decide)

/-- R27, R28: one transaction keeps the invariant. -/
theorem command_keeps_inv (c : Command) (s t : State) (hs : s.Inv) (h : command c s = .next t) : t.Inv := by
  cases c with
  | reset => cases h; exact hs.hostReset
  | run => cases h; exact hs.hostRun
  | step => exact step_keeps_inv hs h

/-- R152: every state that `construct` builds meets the invariant. -/
theorem construct_inv {p : Params} {w h : Nat} {grid : Nat → Nat → Pixel} {input : List Nat} {s : State}
    (hc : construct p w h grid input = .next s) : s.Inv := by
  unfold construct at hc
  split_ifs at hc with hp hd hi
  cases hc
  simp only [dimensionsOk, Bool.not_eq_true', Bool.not_eq_false, Bool.and_eq_true, decide_eq_true_eq] at hp hd
  exact .initial _ hp hd.1 hd.2 (Memory.ofGrid_wf w h grid) (Memory.ofGrid_below w h grid)

end Sys2Proof.Machine

namespace Sys2Proof.Claims

open Sys2Proof.Machine

/-- Settles O48: the invariant through the effect of each instruction, a recovery and a fatal failure. -/
theorem everyStepKeepsTheInvariant : Obligations.EveryStepKeepsTheInvariant := by
  unfold Obligations.EveryStepKeepsTheInvariant
  intro s t hs h
  exact step_keeps_inv hs h

/-- Settles O49, by induction over the commands from the constructed state. -/
theorem everyTransactionMeetsTheInvariant : Obligations.EveryTransactionMeetsTheInvariant := by
  unfold Obligations.EveryTransactionMeetsTheInvariant
  intro p w h grid input cs s t hs ht
  exact commands_keep command_keeps_inv (construct_inv hs) ht

/-- Settles O47: the reset state is a reset state over construction data that is sound. -/
theorem resetMeetsTheInvariant : Obligations.ResetMeetsTheInvariant := by
  unfold Obligations.ResetMeetsTheInvariant
  exact .initial [] (by decide) (by decide) (by decide) (by decide) (by decide)

end Sys2Proof.Claims

/-! Proofs: two runs side by side (R12, D1). The second state differs from the first in register contents and in the
register policy only; their steps then end alike, but where the first stops at a read that the second may make. -/

namespace Sys2Proof.Machine

open Sys2Proof.Claims

/-- `s` with other register contents and another `REG_INIT_POLICY`. -/
def State.relabel (s : State) (regs : Vector Byte 256) (q : RegInit) : State :=
  { s with regs := regs, params := { s.params with regInit := q } }

@[simp] theorem lookahead_relabel (s : State) (regs : Vector Byte 256) (q : RegInit) :
    lookahead (s.relabel regs q) = lookahead s := rfl

@[simp] theorem selectorChannel_relabel (s : State) (regs : Vector Byte 256) (q : RegInit) (g : Byte) :
    selectorChannel (s.relabel regs q).params g = selectorChannel s.params g := rfl

@[simp] theorem decode_relabel (s : State) (regs : Vector Byte 256) (q : RegInit) (c : Pixel) :
    decode (s.relabel regs q).params c = decode s.params c := rfl

@[simp] theorem fetch_relabel (s : State) (regs : Vector Byte 256) (q : RegInit) :
    fetch (s.relabel regs q) = fetch s := rfl

@[simp] theorem State.relabel_mode (s : State) (regs : Vector Byte 256) (q : RegInit) :
    (s.relabel regs q).mode = s.mode := rfl

@[simp] theorem State.relabel_stack (s : State) (regs : Vector Byte 256) (q : RegInit) :
    (s.relabel regs q).stack = s.stack := rfl

@[simp] theorem State.relabel_fn (s : State) (regs : Vector Byte 256) (q : RegInit) (i : Byte) :
    (s.relabel regs q).fn i = s.fn i := rfl

@[simp] theorem State.relabel_inPeek (s : State) (regs : Vector Byte 256) (q : RegInit) :
    (s.relabel regs q).inPeek = s.inPeek := rfl

@[simp] theorem State.relabel_stackFull (s : State) (regs : Vector Byte 256) (q : RegInit) :
    (s.relabel regs q).stackFull = s.stackFull := rfl

/-- `s'` differs from `s` in registers and policy only, and in no register `r` for which `keep r` holds. -/
structure Agree (keep : Byte → Prop) (s s' : State) : Prop where
  relabel : s' = s.relabel s'.regs s'.params.regInit
  reg : ∀ r, keep r → s.reg r = s'.reg r

namespace Agree

variable {keep : Byte → Prop} {s s' : State}

/-- An update that neither looks at a register or the policy nor changes one keeps the agreement. -/
theorem map {f : State → State} (h : Agree keep s s')
    (hf : ∀ (t : State) (v : Vector Byte 256) (q : RegInit), f (t.relabel v q) = (f t).relabel v q)
    (hr : ∀ (t : State) (r : Byte), (f t).reg r = t.reg r) : Agree keep (f s) (f s') where
  relabel := by
    rw [h.relabel, hf]
    rfl
  reg r hk := by rw [hr, hr, h.reg r hk]

/-- Writing one value to one register keeps the agreement (R11). -/
theorem setReg (h : Agree keep s s') (i v : Byte) : Agree keep (s.setReg i v) (s'.setReg i v) where
  relabel := by
    rw [h.relabel]
    rfl
  reg r hk := by rw [State.reg_setReg, State.reg_setReg, h.reg r hk]

theorem advance (h : Agree keep s s') : Agree keep (advance s) (advance s') :=
  h.map (fun _ _ _ => rfl) (fun _ _ => rfl)

theorem setPc (h : Agree keep s s') (L : Loc) : Agree keep (s.setPc L) (s'.setPc L) :=
  h.map (f := fun t => t.setPc L) (fun _ _ _ => rfl) (fun _ _ => rfl)

theorem setMode (h : Agree keep s s') (m : Mode) : Agree keep (s.setMode m) (s'.setMode m) :=
  h.map (f := fun t => t.setMode m) (fun _ _ _ => rfl) (fun _ _ => rfl)

theorem setFn (h : Agree keep s s') (i : Byte) (f : FnSlot) : Agree keep (s.setFn i f) (s'.setFn i f) :=
  h.map (f := fun t => t.setFn i f) (fun _ _ _ => rfl) (fun _ _ => rfl)

theorem setTry (h : Agree keep s s') (hd : Option TryHandler) : Agree keep (s.setTry hd) (s'.setTry hd) :=
  h.map (f := fun t => t.setTry hd) (fun _ _ _ => rfl) (fun _ _ => rfl)

theorem setDir (h : Agree keep s s') (d : Dir) : Agree keep (s.setDir d) (s'.setDir d) :=
  h.map (f := fun t => t.setDir d) (fun _ _ _ => rfl) (fun _ _ => rfl)

theorem push (h : Agree keep s s') (L : Loc) : Agree keep (s.push L) (s'.push L) :=
  h.map (f := fun t => t.push L) (fun _ _ _ => rfl) (fun _ _ => rfl)

theorem setStack (h : Agree keep s s') (st : List Loc) : Agree keep (s.setStack st) (s'.setStack st) :=
  h.map (f := fun t => t.setStack st) (fun _ _ _ => rfl) (fun _ _ => rfl)

theorem bumpInput (h : Agree keep s s') : Agree keep s.bumpInput s'.bumpInput :=
  h.map (f := fun t => t.bumpInput) (fun _ _ _ => rfl) (fun _ _ => rfl)

theorem outAppend (h : Agree keep s s') (c : Byte) : Agree keep (s.outAppend c) (s'.outAppend c) :=
  h.map (f := fun t => t.outAppend c) (fun _ _ _ => rfl) (fun _ _ => rfl)

theorem recover (h : Agree keep s s') (hd : TryHandler) (c : Byte) : Agree keep (recover hd c s) (recover hd c s') :=
  ((h.setPc hd.loc).setReg hd.dest c).setTry none

theorem fatal (h : Agree keep s s') (c : Byte) : Agree keep (fatal c s) (fatal c s') :=
  h.map (f := Machine.fatal c) (fun _ _ _ => rfl) (fun _ _ => rfl)

end Agree

/-- How the steps of `s` and `s'` end alike: next states that agree, one and the same fault, or a stop of the first at
a register that only the second may read. -/
inductive EndsAlike (keep : Byte → Prop) (s s' : State) :
    Host.Outcome State Fault Refusal → Host.Outcome State Fault Refusal → Prop where
  | next {t t' : State} (h : Agree keep t t') : EndsAlike keep s s' (.next t) (.next t')
  | fault (f : Fault) : EndsAlike keep s s' (.fault f) (.fault f)
  | unwritten (r : Byte) (o' : Host.Outcome State Fault Refusal) (hs : s.readable r = false)
      (hs' : s'.readable r = true) : EndsAlike keep s s' (.fault (.unwrittenRead r)) o'

namespace EndsAlike

variable {keep : Byte → Prop} {s s' : State}

/-- The end of a step (R74). -/
theorem complete {t t' : State} (h : Agree keep t t') : EndsAlike keep s s' (complete t) (complete t') :=
  .next h.advance

/-- Taking a failure (R131): the handler is the same one in both states. -/
theorem raise (h : Agree keep s s') (c : Byte) : EndsAlike keep s s' (raiseFailure c s) (raiseFailure c s') := by
  have hl : s'.tryLatch = s.tryLatch := by rw [h.relabel]; rfl
  cases hs : s.tryLatch with
  | none =>
    rw [raiseFailure_none hs, raiseFailure_none (hl.trans hs)]
    exact .next (h.fatal c)
  | some hd =>
    rw [raiseFailure_some hs, raiseFailure_some (hl.trans hs)]
    exact .next (h.recover hd c).advance

/-- Reading a register that holds the same in both states (R12). -/
theorem withReg {i : Byte} {k k' : Byte → Host.Outcome State Fault Refusal}
    (hmono : s.readable i = true → s'.readable i = true) (hreg : s.reg i = s'.reg i)
    (hk : EndsAlike keep s s' (k (s.reg i)) (k' (s.reg i))) :
    EndsAlike keep s s' (withReg i s k) (withReg i s' k') := by
  by_cases hs : s.readable i = true
  · rw [withReg_of_readable hs, withReg_of_readable (hmono hs), ← hreg]
    exact hk
  · by_cases hs' : s'.readable i = true
    · simp only [Machine.withReg, hs, Bool.false_eq_true, if_false]
      exact .unwritten i _ (Bool.eq_false_iff.mpr hs) hs'
    · simp only [Machine.withReg, hs, hs', Bool.false_eq_true, if_false]
      exact .fault _

end EndsAlike

section TwoRuns

variable {keep : Byte → Prop} {s s' : State}

/-- R12 for one instruction: its outcome depends on the registers it reads and on no other. -/
theorem exec_endsAlike (h : Agree keep s s') (hmono : ∀ r, s.readable r = true → s'.readable r = true) (i : Instr)
    (hread : ∀ r ∈ registersRead i, s.reg r = s'.reg r) : EndsAlike keep s s' (exec i s) (exec i s') := by
  obtain ⟨v, q, rfl⟩ : ∃ v q, s' = s.relabel v q := ⟨_, _, h.relabel⟩
  cases i with
  | halt => exact .complete (h.setMode .halted)
  | setvar g b =>
    simp only [exec, execSetvar, selectorChannel_relabel, lookahead_relabel]
    split
    · exact .raise h _
    · exact .complete (h.setReg _ _)
  | calculate g b =>
    simp only [exec, execCalc, lookahead_relabel]
    split
    · exact .raise h _
    · refine .withReg (hmono b) (hread b (by simp [registersRead])) ?_
      split
      · exact .raise h _
      · exact .complete (h.setReg _ _)
  | deffn g b => exact .complete (h.setFn b ⟨s.pc, g⟩)
  | deftry b => exact .complete (h.setTry (some ⟨s.pc, b⟩))
  | ret =>
    simp only [exec, execRet, State.relabel_stack]
    split
    · exact .raise h _
    · exact .complete ((h.setStack _).setPc _)
  | branch g b =>
    simp only [exec, execBranch]
    refine .withReg (hmono g) (hread g (by simp [registersRead])) ?_
    refine .withReg (hmono b) (hread b (by simp [registersRead])) (.complete ?_)
    by_cases heq : branchTaken (s.reg g) (s.reg b) = true
    · simp only [heq, if_true]
      exact h.setDir s.dir.rotate
    · simp only [heq, Bool.false_eq_true, if_false]
      exact h
  | throw g =>
    simp only [exec, execThrow]
    exact .withReg (hmono g) (hread g (by simp [registersRead])) (.raise h _)
  | input b =>
    simp only [exec, execInput, State.relabel_inPeek]
    split
    · exact .raise h _
    · exact .complete (h.bumpInput.setReg _ _)
  | output b =>
    simp only [exec, execOutput]
    refine .withReg (hmono b) (hread b (by simp [registersRead])) ?_
    by_cases hok : printable (s.reg b) = true
    · simp only [hok, if_true]
      exact .complete (h.outAppend (s.reg b))
    · simp only [hok]
      exact .raise h _
  | call g b =>
    simp only [exec, execCall, State.relabel_fn, State.relabel_stackFull]
    split
    · exact .raise h _
    · refine .withReg (hmono g) (hread g (by simp [registersRead])) ?_
      by_cases hfull : s.stackFull = true
      · simp only [hfull, if_true]
        exact .fault _
      · simp only [hfull]
        exact .complete (((h.setReg _ _).push s.pc).setPc _)
  | nop => exact .complete h

/-- R12 for one step: its outcome depends on the registers that the instruction under the cursor reads. -/
theorem step_endsAlike (h : Agree keep s s') (hmono : ∀ r, s.readable r = true → s'.readable r = true)
    (hread : ∀ i, AtInstr s i → ∀ r ∈ registersRead i, s.reg r = s'.reg r) :
    EndsAlike keep s s' (step s) (step s') := by
  obtain ⟨v, q, rfl⟩ : ∃ v q, s' = s.relabel v q := ⟨_, _, h.relabel⟩
  simp only [step, State.relabel_mode, fetch_relabel, decode_relabel]
  split
  · exact .next h
  · exact .next h
  · exact .next h
  · split
    · exact .fault _
    · split
      · exact exec_endsAlike h hmono _ (hread _ ⟨‹_›, _, ‹_›, ‹_›⟩)
      · exact .raise h _

end TwoRuns

end Sys2Proof.Machine

/-! Proofs: the construction data is constant (R4, R18, R22). -/

namespace Sys2Proof.Machine

/-- What the host supplied when the machine was built (R4, R18, R22). -/
def State.construction (s : State) : Params × Nat × Nat × Memory × List Byte :=
  (s.params, s.width, s.height, s.mem, s.input)

theorem Effect.construction {s u : State} {i : Instr} (he : Effect s i u) : u.construction = s.construction := by
  cases he <;> rfl

/-- R22, R30: no step changes the construction data. -/
theorem step_construction {s t : State} (h : step s = .next t) : t.construction = s.construction := by
  cases stepTo_of_step h with
  | stay hm => rfl
  | effect i u hi he => exact he.construction
  | recovery c hd hm hl => rfl
  | fatal c hm hl => rfl

theorem step_params {s t : State} (h : step s = .next t) : t.params = s.params :=
  congrArg Prod.fst (step_construction h)

theorem command_construction {c : Command} {s t : State} (h : command c s = .next t) :
    t.construction = s.construction := by
  cases c with
  | reset => cases h; rfl
  | run => cases h; rfl
  | step => exact step_construction h

theorem commands_construction {cs : List Command} {s t : State} (h : commands cs s = .next t) :
    t.construction = s.construction :=
  commands_keep (P := fun u => u.construction = s.construction)
    (fun _ _ _ hs hc => (command_construction hc).trans hs) rfl h

end Sys2Proof.Machine

namespace Sys2Proof.Claims

open Sys2Proof.Machine

/-- Settles O42, by induction over the commands. -/
theorem constructionDataNeverChanges : Obligations.ConstructionDataNeverChanges := by
  unfold Obligations.ConstructionDataNeverChanges
  intro cs s t h
  have hdata := commands_construction h
  simp only [State.construction, Prod.mk.injEq] at hdata
  obtain ⟨hp, hw, hh, hm, hi⟩ := hdata
  exact ⟨hp, hw, hh, hi, hm, fun a => by rw [hm]⟩

end Sys2Proof.Claims

/-! Proofs: where a step can stop (R10, D7, D8). -/

namespace Sys2Proof.Machine

theorem State.readable_of_strict {s : State} (h : s.params.regInit = .faultOnUnwrittenRead) (i : Byte) :
    s.readable i = s.wasWritten i := by
  simp [State.readable, h]

/-- R10: a read stops under the strict policy alone, and only at a register that nothing has written. -/
theorem State.readable_eq_false {s : State} {i : Byte} :
    s.readable i = false ↔ s.params.regInit = .faultOnUnwrittenRead ∧ s.wasWritten i = false := by
  cases h : s.params.regInit with
  | zero => simp [State.readable_of_zero h]
  | faultOnUnwrittenRead => simp [State.readable_of_strict h]

theorem withReg_of_unreadable {i : Byte} {s : State} (h : s.readable i = false)
    (k : Byte → Host.Outcome State Fault Refusal) : withReg i s k = .fault (.unwrittenRead i) := by
  simp [withReg, h]

theorem fetch_eq_none {s : State} (h : fetch s = none) : s.width = 0 ∨ s.height = 0 := by
  unfold fetch at h
  split at h
  · assumption
  · cases h

/-- Every outcome of a step: one that an execution can have, or the stop of a fetch with no cell (D8, log 11). -/
theorem step_ends {s : State} {o : Host.Outcome State Fault Refusal} (h : step s = o) :
    Ends s o ∨ (o = .fault .emptyGrid ∧ (s.width = 0 ∨ s.height = 0)) := by
  subst h
  cases hm : s.mode with
  | idle => exact .inl (.inl ⟨s, by simp only [step, hm]⟩)
  | halted => exact .inl (.inl ⟨s, by simp only [step, hm]⟩)
  | failed => exact .inl (.inl ⟨s, by simp only [step, hm]⟩)
  | running =>
    cases hf : fetch s with
    | none => exact .inr ⟨by simp only [step, hm, hf], fetch_eq_none hf⟩
    | some c =>
      cases hd : decode s.params c with
      | instruction i =>
        simp only [step, hm, hf, hd]
        exact .inl (exec_ends i s)
      | invalid =>
        simp only [step, hm, hf, hd]
        exact .inl (.raise _ s)

/-- R10: a step that stops at a register does so under the strict policy, at one that nothing has written. -/
theorem step_unwrittenRead {s : State} {r : Byte} (h : step s = .fault (.unwrittenRead r)) :
    s.params.regInit = .faultOnUnwrittenRead ∧ s.wasWritten r = false := by
  rcases step_ends h with (⟨_, hn⟩ | ⟨r', hf, hr⟩ | ⟨hf, -⟩) | ⟨hf, -⟩
  · cases hn
  · cases hf; exact State.readable_eq_false.mp hr
  · cases hf
  · cases hf

/-- R55: the valid Calculate control bytes. -/
theorem calcControl_isSome {g : Byte} (hch : g.toNat % 4 ≠ 0) (hlo : 1 ≤ g.toNat / 32) (hhi : g.toNat / 32 ≤ 4) :
    ∃ op ch, calcControl g = some (op, ch) := by
  obtain ⟨ch, hc⟩ := calcChannel_isSome hch
  obtain ⟨op, ho⟩ : ∃ op, calcOperator g = some op := by
    have hop : g.toNat / 32 = 1 ∨ g.toNat / 32 = 2 ∨ g.toNat / 32 = 3 ∨ g.toNat / 32 = 4 := by omega
    unfold calcOperator
    rw [toNat_shiftRight_five]
    rcases hop with h | h | h | h <;> rw [h] <;> exact ⟨_, rfl⟩
  exact ⟨op, ch, by simp only [calcControl, ho, hc]⟩

end Sys2Proof.Machine

namespace Sys2Proof.Claims

open Sys2Proof.Machine

/-- Settles O51, from the outcomes that a step can have. -/
theorem stepStopsOnlyAsTheSpecSays : Obligations.StepStopsOnlyAsTheSpecSays := by
  unfold Obligations.StepStopsOnlyAsTheSpecSays
  refine ⟨fun s f h => ?_, fun s r h => ?_⟩
  · rcases step_ends h with (⟨_, hn⟩ | ⟨r, hf, -⟩ | ⟨hf, hfull⟩) | ⟨hf, hdim⟩
    · cases hn
    · cases hf
      exact .inl ⟨r, rfl, step_unwrittenRead h⟩
    · cases hf
      exact .inr (.inl ⟨rfl, State.stackFull_iff.mp hfull⟩)
    · cases hf
      exact .inr (.inr ⟨rfl, hdim⟩)
  · rcases step_ends h with (⟨_, hn⟩ | ⟨_, hf, -⟩ | ⟨hf, -⟩) | ⟨hf, -⟩
    · cases hn
    · cases hf
    · cases hf
    · cases hf

/-- Settles O30: each of the reading instructions gets to its read of the never-written register. -/
theorem unwrittenReadStopsUnderStrictPolicy : Obligations.UnwrittenReadStopsUnderStrictPolicy := by
  unfold Obligations.UnwrittenReadStopsUnderStrictPolicy
  intro s r g b hpol hr
  have hstop := withReg_of_unreadable (State.readable_eq_false.mpr ⟨hpol, hr⟩)
  refine ⟨?_, ?_, ?_, fun hg => ?_, fun hfn => ?_, fun hch hlo hhi => ?_⟩
  · simp only [exec, execThrow, hstop]
  · simp only [exec, execOutput, hstop]
  · simp only [exec, execBranch, hstop]
  · simp only [exec, execBranch, withReg_of_readable (State.readable_of_written hg), hstop]
  · obtain ⟨f, hf⟩ := Option.ne_none_iff_exists'.mp hfn
    simp only [exec, execCall, hf, hstop]
  · obtain ⟨op, ch, hctl⟩ := calcControl_isSome hch hlo hhi
    simp only [exec, execCalc, hctl, hstop]

end Sys2Proof.Claims

/-! Proofs: the two runs compared, for states that differ in registers only (R12) and for the two policies (D1). -/

namespace Sys2Proof.Claims

open Sys2Proof.Machine

theorem SameButRegs.agree {s s' : State} (h : SameButRegs s s') : Agree (fun r => s.reg r = s'.reg r) s s' := by
  obtain ⟨v, rfl⟩ : ∃ v, s' = { s with regs := v } := ⟨_, h⟩
  exact ⟨rfl, fun _ hk => hk⟩

theorem SameButRegs.params {s s' : State} (h : SameButRegs s s') : s'.params = s.params := by
  rw [h]

theorem SameButRegs.readable {s s' : State} (h : SameButRegs s s') (r : Byte) : s'.readable r = s.readable r := by
  rw [h]
  rfl

theorem sameButRegs_of_agree {keep : Byte → Prop} {t t' : State} (h : Agree keep t t') (hp : t'.params = t.params) :
    SameButRegs t t' := by
  have hrel := h.relabel
  rw [hp] at hrel
  exact hrel

/-- Where the second state may read no register that the first may not, ends that are alike are of one kind. -/
theorem sameOutcome_of_endsAlike {keep : Byte → Prop} {s s' : State} {o o' : Host.Outcome State Fault Refusal}
    (h : EndsAlike keep s s' o o') (hread : ∀ r, s'.readable r = s.readable r)
    (hparams : ∀ t t', o = .next t → o' = .next t' → t'.params = t.params) : SameOutcome keep o o' := by
  cases h with
  | next hA => exact ⟨sameButRegs_of_agree hA (hparams _ _ rfl rfl), hA.reg⟩
  | fault f => rfl
  | unwritten r _ hs hs' => simp [hread, hs] at hs'

/-- Settles O33: the two steps end alike, and neither changes the parameters. -/
theorem registersAreReadOnlyAsListed : Obligations.RegistersAreReadOnlyAsListed := by
  unfold Obligations.RegistersAreReadOnlyAsListed
  intro s s' h hread
  have halike := step_endsAlike h.agree (fun r hr => (h.readable r).trans hr) hread
  refine sameOutcome_of_endsAlike halike h.readable fun t t' ht ht' => ?_
  rw [step_params ht', step_params ht, h.params]

theorem agree_underPolicy (q : RegInit) (s : State) : Agree (fun _ => True) s (underPolicy q s) :=
  ⟨rfl, fun _ _ => rfl⟩

theorem eq_underPolicy_of_agree {q : RegInit} {t t' : State} (h : Agree (fun _ => True) t t')
    (hq : t'.params.regInit = q) : t' = underPolicy q t := by
  have hregs : t.regs = t'.regs := State.regs_ext fun i => h.reg i trivial
  have hrel := h.relabel
  rw [hq, ← hregs] at hrel
  exact hrel

/-- Going to another policy and back gives the state again. -/
theorem underPolicy_underPolicy {p q : RegInit} {s : State} (h : s.params.regInit = p) :
    underPolicy p (underPolicy q s) = s := by
  subst h
  rfl

/-- D1: the strict step and the default one end alike; the default one may read every register. -/
theorem step_underPolicy_zero_endsAlike (s : State) :
    EndsAlike (fun _ => True) s (underPolicy .zero s) (step s) (step (underPolicy .zero s)) :=
  step_endsAlike (agree_underPolicy .zero s) (fun r _ => State.readable_of_zero rfl r) fun _ _ _ _ => rfl

/-- Where both policies have a next state, it is the same but for the policy. -/
theorem step_underPolicy_zero_next {s t t' : State} (h : step (underPolicy .zero s) = .next t')
    (hA : Agree (fun _ => True) t t') : t' = underPolicy .zero t :=
  eq_underPolicy_of_agree hA (by rw [step_params h]; rfl)

/-- Settles O52: the two steps end alike, and the one stop that tells them apart is a read of a never-written
register. -/
theorem strictPolicyDiffersOnlyAtUnwrittenReads : Obligations.StrictPolicyDiffersOnlyAtUnwrittenReads := by
  unfold Obligations.StrictPolicyDiffersOnlyAtUnwrittenReads
  intro s hpol
  have halike := step_underPolicy_zero_endsAlike s
  refine ⟨fun t ht => ?_, fun t' ht' => ?_, fun r hr => ?_⟩
  · rw [ht] at halike
    generalize ho : step (underPolicy .zero s) = o at halike
    cases halike with
    | next hA => rw [step_underPolicy_zero_next ho hA]
  · rw [ht'] at halike
    generalize ho : step s = o at halike
    cases halike with
    | next hA =>
      rename_i t
      have hback : underPolicy .faultOnUnwrittenRead t' = t := by
        rw [step_underPolicy_zero_next ht' hA, underPolicy_underPolicy (by rw [step_params ho, hpol])]
      exact .inl (by rw [hback])
    | unwritten r _ hs _ => exact .inr ⟨r, (State.readable_eq_false.mp hs).2, rfl⟩
  · cases (step_unwrittenRead hr).1

end Sys2Proof.Claims

/-! Proofs: what a step can change, and when (R11, R13 to R19). -/

namespace Sys2Proof.Machine

/-- R101: the rotation of a taken Branch is `(dx, dy) -> (-dy, dx)`. -/
theorem Dir.rotate_components (d : Dir) : d.rotate.dx = -d.dy ∧ d.rotate.dy = d.dx := by
  cases d <;> decide

/-- A register write changes no other register (R10). -/
theorem State.eq_of_reg_setReg_ne {s : State} {i v r : Byte} (h : (s.setReg i v).reg r ≠ s.reg r) : i = r := by
  by_contra hne
  exact h (by rw [State.reg_setReg, if_neg hne])

/-- A slot binding changes no other slot (R15). -/
theorem State.eq_of_fn_setFn_ne {s : State} {i r : Byte} {f : FnSlot} (h : (s.setFn i f).fn r ≠ s.fn r) : i = r := by
  by_contra hne
  exact h (by rw [State.fn_setFn, if_neg hne])

variable {s u : State} {i : Instr}

/-- R13: before the advance the cursor is where it was, or where a Call or a Return put it. -/
theorem Effect.pc_cases (he : Effect s i u) :
    u.pc = s.pc ∨ (∃ g b f, i = .call g b ∧ s.fn b = some f ∧ u.pc = f.loc) ∨
      (i = .ret ∧ ∃ rest, s.stack = u.pc :: rest) := by
  cases he with
  | ret L rest hst => exact .inr (.inr ⟨rfl, rest, hst⟩)
  | call g b f hfn hread hroom => exact .inr (.inl ⟨g, b, f, rfl, hfn, rfl⟩)
  | _ => exact .inl rfl

/-- An instruction that raises nothing does not end in `Failed` (R20). -/
theorem Effect.mode_ne_failed (he : Effect s i u) (hm : s.mode = .running) : u.mode ≠ .failed := by
  cases he with
  | halt => simp
  | _ => simp [hm]

end Sys2Proof.Machine

namespace Sys2Proof.Claims

open Sys2Proof.Machine

/-- Settles O32: the effects that write a register, each with its destination, and the recovery's write. -/
theorem registersChangeOnlyByListedWrites : Obligations.RegistersChangeOnlyByListedWrites := by
  unfold Obligations.RegistersChangeOnlyByListedWrites
  refine ⟨fun s t r h hne => ?_, fun s r => ?_⟩
  · cases stepTo_of_step h with
    | stay hm => exact absurd rfl hne
    | effect i u hi he =>
      rw [advance_reg] at hne
      cases he with
      | setvar g b ch hsel =>
        obtain rfl := State.eq_of_reg_setReg_ne hne
        exact .inl ⟨g, hi⟩
      | calculate g b op ch res hctl hread hres =>
        obtain rfl := State.eq_of_reg_setReg_ne hne
        exact .inr (.inl ⟨g, hi⟩)
      | input b c hin =>
        obtain rfl := State.eq_of_reg_setReg_ne (s := s.bumpInput) hne
        exact .inr (.inr (.inl hi))
      | call g b f hfn hread hroom =>
        rw [State.setPc_reg, State.push_reg] at hne
        exact .inr (.inr (.inr (.inl ⟨g, b, f, hi, hfn, State.eq_of_reg_setReg_ne hne⟩)))
      | _ => exact absurd rfl hne
    | recovery c hd hm hl =>
      have hdest : hd.dest = r := by
        by_contra hr
        exact hne (by rw [advance_reg, reg_recover, if_neg hr])
      have hcode : (advance (recover hd c s)).reg r = c := by rw [advance_reg, reg_recover, if_pos hdest]
      exact .inr (.inr (.inr (.inr ⟨hd, hl, hdest, by rw [hcode, advance_recover]⟩)))
    | fatal c hm hl => exact absurd rfl hne
  · have hreset : (hostReset s).reg r = State.reset.reg r := by
      simp only [hostReset, State.reset, State.reg_initial]
    exact ⟨hreset, hreset⟩

/-- Settles O34: of all effects only a taken Branch's sets the direction. -/
theorem onlyATakenBranchTurns : Obligations.OnlyATakenBranchTurns := by
  unfold Obligations.OnlyATakenBranchTurns
  intro s t h hne
  cases stepTo_of_step h with
  | effect i u hi he =>
    cases he with
    | branchTaken g b hg hb heq => exact ⟨g, b, hi, heq, s.dir.rotate_components⟩
    | _ => exact absurd rfl hne
  | _ => exact absurd rfl hne

/-- Settles O35: of all effects only DefineFunction's binds a slot, the one it names. -/
theorem onlyDefineFunctionBindsSlots : Obligations.OnlyDefineFunctionBindsSlots := by
  unfold Obligations.OnlyDefineFunctionBindsSlots
  intro s t j h hne
  cases stepTo_of_step h with
  | effect i u hi he =>
    rw [advance_fn] at hne ⊢
    cases he with
    | deffn g b =>
      obtain rfl := State.eq_of_fn_setFn_ne hne
      exact ⟨g, hi, by rw [State.fn_setFn, if_pos rfl]⟩
    | _ => exact absurd rfl hne
  | _ => exact absurd rfl hne

/-- Settles O36: of all effects only DefineTry's sets the latch; a recovery clears it. -/
theorem onlyDefineTryArmsAndRecoveryDisarms : Obligations.OnlyDefineTryArmsAndRecoveryDisarms := by
  unfold Obligations.OnlyDefineTryArmsAndRecoveryDisarms
  intro s t h hne
  cases stepTo_of_step h with
  | effect i u hi he =>
    cases he with
    | deftry b => exact .inl ⟨b, hi, rfl⟩
    | _ => exact absurd rfl hne
  | recovery c hd hm hl => exact .inr ⟨hd, c, hl, advance_recover hd c s⟩
  | _ => exact absurd rfl hne

/-- Settles O37: of all effects only Call's and Return's change the stack. -/
theorem onlyCallPushesAndReturnPops : Obligations.OnlyCallPushesAndReturnPops := by
  unfold Obligations.OnlyCallPushesAndReturnPops
  intro s t h hne
  cases stepTo_of_step h with
  | effect i u hi he =>
    cases he with
    | call g b f hfn hread hroom => exact .inl ⟨g, b, hi, rfl⟩
    | ret L rest hst => exact .inr ⟨L, hi, hst⟩
    | _ => exact absurd rfl hne
  | _ => exact absurd rfl hne

/-- Settles O38: of all effects only Input's moves the cursor, past the byte that it delivers. -/
theorem inputCursorMovesOnlyByInput : Obligations.InputCursorMovesOnlyByInput := by
  unfold Obligations.InputCursorMovesOnlyByInput
  intro s t h
  cases stepTo_of_step h with
  | effect i u hi he =>
    cases he with
    | input b c hin =>
      obtain ⟨hlt, hc⟩ := State.inPeek_eq_some.mp hin
      exact .inr ⟨b, hlt, hi, rfl, by rw [advance_reg, State.reg_setReg, if_pos rfl, hc]⟩
    | _ => exact .inl rfl
  | _ => exact .inl rfl

/-- Settles O39: of all effects only Output's appends, a byte that it found printable. -/
theorem outputBufferIsAppendOnly : Obligations.OutputBufferIsAppendOnly := by
  unfold Obligations.OutputBufferIsAppendOnly
  refine ⟨fun s t h => ?_, fun s => ⟨hostReset_out s, hostRun_out s⟩⟩
  cases stepTo_of_step h with
  | effect i u hi he =>
    cases he with
    | output b hread hok => exact .inr ⟨b, hi, rfl, printable_iff.mp hok⟩
    | _ => exact .inl rfl
  | _ => exact .inl rfl

/-- Settles O40: a fatal failure leaves the cursor; every other end of a step is one advance. -/
theorem cursorMovesByExactlyOneAdvance : Obligations.CursorMovesByExactlyOneAdvance := by
  unfold Obligations.CursorMovesByExactlyOneAdvance
  intro s t h hm
  cases stepTo_of_step h with
  | stay hidle => exact absurd hm hidle
  | effect i u hi he =>
    refine .inr ⟨he.mode_ne_failed hm, u.pc, nextLoc_eq_aheadLoc u u.pc, ?_⟩
    rcases he.pc_cases with hpc | ⟨g, b, f, rfl, hfn, hpc⟩ | ⟨rfl, hst⟩
    · exact .inl hpc
    · exact .inr (.inl ⟨g, b, f, hi, hfn, hpc⟩)
    · exact .inr (.inr (.inl ⟨hi, hst⟩))
  | recovery c hd _ hl =>
    refine .inr ⟨by simp [hm], hd.loc, nextLoc_eq_aheadLoc (recover hd c s) hd.loc, ?_⟩
    exact .inr (.inr (.inr ⟨hd, c, hl, rfl, advance_recover hd c s⟩))
  | fatal c _ hl => exact .inl ⟨rfl, rfl⟩

end Sys2Proof.Claims

/-! Proofs: the address-wrap unit (R31, R32), one coordinate at a time, then a Location. -/

namespace Sys2Proof.Machine

/-! ### One coordinate -/

/-- R31: `k + 1` cells ahead is one cell ahead of where `k` cells ahead lands, since a remainder may be taken early. -/
theorem wrapCoord_succ {n : Nat} (hn : 0 < n) (c : Nat) (d : Int) (k : Nat) :
    wrapCoord n c d (k + 1) = wrapCoord n (wrapCoord n c d k) d 1 := by
  apply Int.ofNat.inj
  calc (wrapCoord n c d (k + 1) : Int)
      = (c + (n + d) * k + (n + d) * (1 : Nat)) % n := by
        rw [wrapCoord_cast hn, Nat.cast_add, mul_add, ← add_assoc]
    _ = (wrapCoord n c d k + (n + d) * (1 : Nat)) % n := by rw [wrapCoord_cast hn, Int.emod_add_emod]
    _ = wrapCoord n (wrapCoord n c d k) d 1 := (wrapCoord_cast hn _ _ _).symm

/-- A coordinate across the direction of travel stays. -/
theorem wrapCoord_across {n c : Nat} (hc : c < n) : wrapCoord n c 0 1 = c := by
  have hmod : ((c : Int) + n) % n = c := by rw [Int.add_emod_right]; exact Int.emod_eq_of_lt (by omega) (by omega)
  simp [wrapCoord, hmod]

/-- One forward from the last coordinate wraps to the first. -/
theorem wrapCoord_last {n : Nat} (hn : 0 < n) : wrapCoord n (n - 1) 1 1 = 0 := by
  have hsum : ((n - 1 : Nat) : Int) + ((n : Int) + 1) * (1 : Nat) = n + n := by omega
  rw [wrapCoord, hsum, Int.add_emod_right, Int.emod_self, Int.toNat_zero]

/-- One backward from the first coordinate wraps to the last. -/
theorem wrapCoord_first {n : Nat} (hn : 0 < n) : wrapCoord n 0 (-1) 1 = n - 1 := by
  have hsum : ((0 : Nat) : Int) + ((n : Int) + -1) * (1 : Nat) = (n - 1 : Nat) := by omega
  have hmod : ((n - 1 : Nat) : Int) % n = (n - 1 : Nat) := Int.emod_eq_of_lt (by omega) (by omega)
  rw [wrapCoord, hsum, hmod, Int.toNat_natCast]

/-- A side of length 1 has one coordinate. -/
theorem wrapCoord_side_one (c : Nat) (d : Int) (k : Nat) : wrapCoord 1 c d k = 0 :=
  Nat.lt_one_iff.mp (wrapCoord_lt Nat.one_pos c d k)

/-! ### A Location -/

section

variable {s : State}

theorem gridLoc_zero {L : Loc} (h : s.InGrid L) : gridLoc s L 0 = L := by
  obtain ⟨hx, hy⟩ := h
  simp only [gridLoc, wrapCoord_zero hx, wrapCoord_zero hy]

theorem gridLoc_succ (hw : 0 < s.width) (hh : 0 < s.height) (L : Loc) (k : Nat) :
    gridLoc s L (k + 1) = gridLoc s (gridLoc s L k) 1 :=
  congrArg₂ Loc.mk (wrapCoord_succ hw L.x _ k) (wrapCoord_succ hh L.y _ k)

/-- R32 along a row: `y` stays. -/
theorem nextLoc_along_row (hd : s.dir = .east ∨ s.dir = .west) (x : Nat) {y : Nat} (hy : y < s.height) :
    nextLoc s ⟨x, y⟩ = ⟨wrapCoord s.width x s.dir.dx 1, y⟩ := by
  have hdy : s.dir.dy = 0 := by rcases hd with hd | hd <;> simp [hd, Dir.dy]
  simp only [nextLoc, gridLoc, hdy, wrapCoord_across hy]

/-- R32 along a column: `x` stays. -/
theorem nextLoc_along_column (hd : s.dir = .south ∨ s.dir = .north) {x : Nat} (hx : x < s.width) (y : Nat) :
    nextLoc s ⟨x, y⟩ = ⟨x, wrapCoord s.height y s.dir.dy 1⟩ := by
  have hdx : s.dir.dx = 0 := by rcases hd with hd | hd <;> simp [hd, Dir.dx]
  simp only [nextLoc, gridLoc, hdx, wrapCoord_across hx]

end

end Sys2Proof.Machine

namespace Sys2Proof.Claims

open Sys2Proof.Machine

/-- Settles O6, coordinate by coordinate. -/
theorem gridReadWrapsIntoTheGrid : Obligations.GridReadWrapsIntoTheGrid := by
  unfold Obligations.GridReadWrapsIntoTheGrid
  intro s hw hh L k
  exact ⟨rfl, wrapCoord_cast hw _ _ _, wrapCoord_cast hh _ _ _, gridLoc_inGrid hw hh L k, gridLoc_zero,
    gridLoc_succ hw hh L k⟩

/-- Settles O7: the coordinate across the direction of travel stays, and the one along it wraps at either end. -/
theorem nextWrapsAtTheEdges : Obligations.NextWrapsAtTheEdges := by
  unfold Obligations.NextWrapsAtTheEdges
  intro s hw hh
  refine ⟨nextLoc_eq_aheadLoc s, fun hd y hy => ?east, fun hd y hy => ?west, fun hd x hx => ?south,
    fun hd x hx => ?north, fun h1 hd y hy => ?oneColumn, fun h1 hd x hx => ?oneRow⟩
  case east => rw [nextLoc_along_row (.inl hd) _ hy, hd, Dir.dx, wrapCoord_last hw]
  case west => rw [nextLoc_along_row (.inr hd) _ hy, hd, Dir.dx, wrapCoord_first hw]
  case south => rw [nextLoc_along_column (.inl hd) hx, hd, Dir.dy, wrapCoord_last hh]
  case north => rw [nextLoc_along_column (.inr hd) hx, hd, Dir.dy, wrapCoord_first hh]
  case oneColumn => rw [nextLoc_along_row hd _ hy, h1, wrapCoord_side_one]
  case oneRow => rw [nextLoc_along_column hd hx, h1, wrapCoord_side_one]

end Sys2Proof.Claims

/-! Proofs: under the defaults of R4 no step stops (R34, R77). -/

namespace Sys2Proof.Machine

/-- Without a `STACK_LIMIT` the stack is never full (D7). -/
theorem State.stackFull_of_no_limit {s : State} (h : s.params.stackLimit = none) : s.stackFull = false := by
  simp [State.stackFull, h]

end Sys2Proof.Machine

namespace Sys2Proof.Claims

open Sys2Proof.Machine

/-- Settles O50: of the ways a step can end, the defaults and a grid with a cell leave only a next state. -/
theorem everyStepHasANextState : Obligations.EveryStepHasANextState := by
  unfold Obligations.EveryStepHasANextState
  rintro s ⟨hzero, hlimit⟩ hw hh
  rcases step_ends (s := s) rfl with (hnext | ⟨r, -, hunread⟩ | ⟨-, hfull⟩) | ⟨-, hdim⟩
  · exact hnext
  · simp [State.readable_of_zero hzero r] at hunread
  · simp [State.stackFull_of_no_limit hlimit] at hfull
  · omega

end Sys2Proof.Claims

/-! Proofs: the decoder as a table of its twelve arms, keyed by the opcode bytes (R53). A well-formed assignment has
distinct keys (R52), so that an arm is found if and only if the table has it; the round trip and the ignored bytes
are then read off the table. -/

namespace Sys2Proof

/-- The arms of the decoder for the cell `c`: each opcode byte with the instruction that its row reads from `c`. -/
def decodeArms (p : Params) (c : Pixel) : List (Σ _ : Byte, Instr) :=
  [⟨p.opcHalt, .halt⟩, ⟨p.opcSetvar, .setvar c.g c.b⟩, ⟨p.opcCalculate, .calculate c.g c.b⟩,
   ⟨p.opcDeffn, .deffn c.g c.b⟩, ⟨p.opcDeftry, .deftry c.b⟩, ⟨p.opcReturn, .ret⟩,
   ⟨p.opcBranch, .branch c.g c.b⟩, ⟨p.opcThrow, .throw c.g⟩, ⟨p.opcInput, .input c.b⟩,
   ⟨p.opcOutput, .output c.b⟩, ⟨p.opcCall, .call c.g c.b⟩, ⟨p.opcNop, .nop⟩]

theorem decodeArms_keys (p : Params) (c : Pixel) : (decodeArms p c).keys = p.opcodes := rfl

theorem decodeArms_nodupKeys {p : Params} (hp : p.wf = true) (c : Pixel) : (decodeArms p c).NodupKeys := by
  rw [List.NodupKeys, decodeArms_keys]
  exact p.opcodes_nodup hp

/-- One arm of a lookup is one test of the key. -/
theorem dlookup_cons_elim {α : Type} (r k : Byte) (i : Instr) (l : List (Σ _ : Byte, Instr)) (d : α) (f : Instr → α) :
    (List.dlookup r (⟨k, i⟩ :: l)).elim d f = if r = k then f i else (List.dlookup r l).elim d f := by
  by_cases h : r = k
  · subst h
    rw [List.dlookup_cons_eq, if_pos rfl, Option.elim_some]
  · rw [List.dlookup_cons_ne l ⟨k, i⟩ h, if_neg h]

/-- R53: decoding looks `r` up among the arms. -/
theorem decode_eq_dlookup (p : Params) (c : Pixel) :
    decode p c = (List.dlookup c.r (decodeArms p c)).elim .invalid .instruction := by
  simp only [decode, decodeArms, dlookup_cons_elim, List.dlookup_nil, Option.elim_none]

theorem decode_eq_instruction {p : Params} {c : Pixel} {i : Instr} :
    decode p c = .instruction i ↔ List.dlookup c.r (decodeArms p c) = some i := by
  rw [decode_eq_dlookup]
  cases List.dlookup c.r (decodeArms p c) <;> simp

/-- A cell decodes to an instruction of one of the arms, whatever the assignment is. -/
theorem mem_decodeArms_of_decode {p : Params} {c : Pixel} {i : Instr} (h : decode p c = .instruction i) :
    ⟨c.r, i⟩ ∈ decodeArms p c :=
  List.of_mem_dlookup (decode_eq_instruction.mp h)

/-- R52, R53: with distinct opcode bytes, an arm with the cell's `r` is the one that decoding takes. -/
theorem decode_of_mem_decodeArms {p : Params} (hp : p.wf = true) {c : Pixel} {i : Instr}
    (h : ⟨c.r, i⟩ ∈ decodeArms p c) : decode p c = .instruction i :=
  decode_eq_instruction.mpr (List.mem_dlookup (decodeArms_nodupKeys hp c) h)

/-- R53: a cell is INVALID exactly when its `r` is no opcode byte. -/
theorem decode_eq_invalid {p : Params} {c : Pixel} : decode p c = .invalid ↔ c.r ∉ p.opcodes := by
  rw [← decodeArms_keys p c, ← List.dlookup_eq_none, decode_eq_dlookup]
  cases List.dlookup c.r (decodeArms p c) <;> simp

/-- R61: an encoded cell has its instruction among its arms. -/
theorem encode_mem_decodeArms (p : Params) (i : Instr) : ⟨(encode p i).r, i⟩ ∈ decodeArms p (encode p i) := by
  cases i <;> simp [encode, decodeArms]

/-- R54, R61: the encoder writes an arm's key and the bytes that its instruction uses. -/
theorem encode_of_mem_decodeArms {p : Params} {c : Pixel} {a : Σ _ : Byte, Instr} (h : a ∈ decodeArms p c) :
    encode p a.2 = Claims.usedBytes a.2 ⟨a.1, c.g, c.b⟩ := by
  revert a
  simp [decodeArms, encode, Claims.usedBytes]

end Sys2Proof

namespace Sys2Proof.Claims

/-- Settles O2: the instruction is among the arms of its own cell. -/
theorem decodeOfEncodeIsTheInstruction : Obligations.DecodeOfEncodeIsTheInstruction := by
  unfold Obligations.DecodeOfEncodeIsTheInstruction
  intro p hp i
  exact decode_of_mem_decodeArms hp (encode_mem_decodeArms p i)

/-- Settles O1: each of the twelve arms is in the table, and INVALID is a key that is not. -/
theorem decodeSelectsOnOpcodeByteAlone : Obligations.DecodeSelectsOnOpcodeByteAlone := by
  unfold Obligations.DecodeSelectsOnOpcodeByteAlone
  intro p hp
  refine ⟨fun g b => ?_, fun c => decode_eq_invalid⟩
  refine ⟨?_, ?_, ?_, ?_, ?_, ?_, ?_, ?_, ?_, ?_, ?_, ?_⟩ <;>
    exact decode_of_mem_decodeArms hp (by simp [decodeArms])

/-- Settles O3: the arm that decoding took holds exactly the bytes that encoding writes back. -/
theorem encodeOfDecodeKeepsUsedBytes : Obligations.EncodeOfDecodeKeepsUsedBytes := by
  unfold Obligations.EncodeOfDecodeKeepsUsedBytes
  intro p c i h
  exact encode_of_mem_decodeArms (mem_decodeArms_of_decode h)

end Sys2Proof.Claims

/-! Proofs: the bytes and bits that change nothing (R58, D9). -/

namespace Sys2Proof.Machine

/-- R55: Calculate's control byte without its bits 4..2 names the same operator and channel. -/
theorem calcControl_mask (g : Byte) : calcControl (g &&& 0xE3#8) = calcControl g := by
  have hop : (g &&& 0xE3#8).toNat / 32 = g.toNat / 32 := by revert g; decide
  have hch : (g &&& 0xE3#8).toNat % 4 = g.toNat % 4 := by revert g; decide
  exact calcControl_congr hop hch

/-- R81: of the byte `g` an execution of Calculate uses the two control fields only. -/
theorem exec_calculate_congr {g g' : Byte} (h : calcControl g = calcControl g') (b : Byte) (s : State) :
    exec (.calculate g b) s = exec (.calculate g' b) s := by
  simp only [exec, execCalc, h]

end Sys2Proof.Machine

namespace Sys2Proof.Claims

open Sys2Proof.Machine

/-- Settles O4: the arms that O1 gives two such cells are the same instruction, and the mask keeps both control fields. -/
theorem ignoredOperandBytesHaveNoEffect : Obligations.IgnoredOperandBytesHaveNoEffect := by
  unfold Obligations.IgnoredOperandBytesHaveNoEffect
  refine ⟨fun p hp g b g' b' => ?_, fun g g' b s h => ?_⟩
  · obtain ⟨harms, -⟩ := decodeSelectsOnOpcodeByteAlone p hp
    simp only [harms, and_self]
  · apply exec_calculate_congr
    rw [← calcControl_mask g, h, calcControl_mask]

end Sys2Proof.Claims

/-! Proofs: the word that `withFetchWord` places is the one fetched next (R51, R71; log 5). -/

namespace Sys2Proof.Machine

/-- R22: a cell put into the store is read back. -/
theorem pixelAt_of_storePixel {s : State} {m : Memory} {L : Loc} {c : Pixel} (hm : Memory.wf m = true)
    (h : s.mem = storePixel s.width m L c) : pixelAt s L = c := by
  simp [pixelAt, h, read_storePixel hm]

/-- The fetch after `withFetchWord` reads the placed cell. -/
theorem fetch_withFetchWord {s : State} (hw : 0 < s.width) (hh : 0 < s.height) (hm : Memory.wf s.mem = true)
    (nbits w : Nat) : fetch (s.withFetchWord nbits w) = some (unpackPixel (w % 2 ^ nbits)) := by
  rw [fetch_eq (s := s.withFetchWord nbits w) hw hh]
  exact congrArg some (pixelAt_of_storePixel hm rfl)

/-- R71, R72: a running core executes the instruction that it fetches. -/
theorem step_of_fetch {s : State} {c : Pixel} {i : Instr} (hmode : s.mode = .running) (hc : fetch s = some c)
    (hi : decode s.params c = .instruction i) : step s = exec i s := by
  simp only [step, hmode, hc, hi]

end Sys2Proof.Machine

namespace Sys2Proof.Claims

open Sys2Proof.Machine

/-- Settles O12: the placed cell is fetched, and it decodes to the instruction. -/
theorem placedWordIsTheNextInstruction : Obligations.PlacedWordIsTheNextInstruction := by
  unfold Obligations.PlacedWordIsTheNextInstruction
  intro s nbits w i hw hh hm hi
  exact step_of_fetch rfl (fetch_withFetchWord hw hh hm nbits w) hi

/-- Settles O5: each word is one cell of 24 bits, decoded under REF. -/
theorem listedWordsDecode : Obligations.ListedWordsDecode := by
  unfold Obligations.ListedWordsDecode
  decide

end Sys2Proof.Claims

/-! Proofs: the step cycle (R70, R76), as equations of `step` beside `step_of_fetch`, which is the one for a cell that
is an instruction (R72). -/

namespace Sys2Proof.Machine

/-- R70: the three modes other than Running. -/
theorem step_of_not_running {s : State} (hm : s.mode ≠ .running) : step s = .next s := by
  cases h : s.mode with
  | idle => simp only [step, h]
  | running => exact absurd h hm
  | halted => simp only [step, h]
  | failed => simp only [step, h]

/-- R76: a running core that fetches an INVALID cell raises the failure. -/
theorem step_of_fetch_invalid {s : State} {c : Pixel} (hmode : s.mode = .running) (hc : fetch s = some c)
    (hd : decode s.params c = .invalid) : step s = raiseFailure s.params.codeInvalidInstruction s := by
  simp only [step, hmode, hc, hd, execInvalid]

end Sys2Proof.Machine

namespace Sys2Proof.Claims

open Sys2Proof.Machine

/-- R131: raising a failure is the taking of it, with the next states written out in full (R132, R133). -/
theorem takesFailure_raiseFailure (s : State) (c : Byte) : TakesFailure s c (raiseFailure c s) := by
  constructor
  · intro hd hl
    rw [raiseFailure_some hl, advance_recover]
  · exact fun hl => raiseFailure_none hl c

/-- Settles O8, mode by mode. -/
theorem stepDoesNothingUnlessRunning : Obligations.StepDoesNothingUnlessRunning := by
  unfold Obligations.StepDoesNothingUnlessRunning
  exact fun _ => step_of_not_running

/-- Settles O10: in the grid, the fetched cell is the one under the cursor. -/
theorem stepRunsTheDecodedInstruction : Obligations.StepRunsTheDecodedInstruction := by
  unfold Obligations.StepRunsTheDecodedInstruction
  intro s i hmode hpc hi
  exact step_of_fetch hmode (fetch_pixelAt hpc) hi

/-- Settles O11: a cell whose `r` is no opcode decodes to INVALID, and the step raises the failure for it. -/
theorem invalidCellRaisesInvalidInstruction : Obligations.InvalidCellRaisesInvalidInstruction := by
  unfold Obligations.InvalidCellRaisesInvalidInstruction
  intro s hmode hpc hr
  rw [step_of_fetch_invalid hmode (fetch_pixelAt hpc) (decode_eq_invalid.mpr hr)]
  exact takesFailure_raiseFailure s _

end Sys2Proof.Claims

/-! Proofs: the data instructions, SETVAR and CALC (R80, R81, R82), in the terms of the statements. -/

namespace Sys2Proof.Machine

open Sys2Proof.Claims

/-- R50: the lookahead operand is the cell one ahead of the cursor. -/
theorem lookahead_eq_aheadPixel (s : State) : lookahead s = aheadPixel s :=
  congrArg (pixelAt s) (nextLoc_eq_aheadLoc s s.pc)

/-- R74: a register write and the advance, as the whole next state. -/
theorem complete_setReg (s : State) (r v : Byte) : complete (s.setReg r v) = .next (advanced (wrote s r v)) := by
  simp only [complete, advance, nextLoc_eq_aheadLoc]
  rfl

/-- R80 with a mapped selector. -/
theorem exec_setvar_of_channel {s : State} {g : Byte} {ch : Channel} (h : selectorChannel s.params g = some ch)
    (b : Byte) : exec (.setvar g b) s = .next (advanced (wrote s b (channelByte (aheadPixel s) ch))) := by
  simp only [exec, execSetvar, h, lookahead_eq_aheadPixel, complete_setReg]

/-- R80 with an unmapped selector. -/
theorem exec_setvar_of_unmapped {s : State} {g : Byte} (h : selectorChannel s.params g = none) (b : Byte) :
    exec (.setvar g b) s = raiseFailure s.params.codeInvalidParameter s := by
  simp only [exec, execSetvar, h]

/-- R4, R56: the selector bytes are distinct, so each of them names its own channel. -/
theorem selectorChannel_sel {p : Params} (hp : p.wf = true) :
    selectorChannel p p.sel1 = some .ch1 ∧ selectorChannel p p.sel2 = some .ch2 ∧
      selectorChannel p p.sel3 = some .ch3 := by
  have hnodup : [p.sel1, p.sel2, p.sel3].Nodup := p.selectors_nodup hp
  have hne : (p.sel1 ≠ p.sel2 ∧ p.sel1 ≠ p.sel3) ∧ p.sel2 ≠ p.sel3 := by simpa using hnodup
  obtain ⟨⟨h12, h13⟩, h23⟩ := hne
  simp [selectorChannel, h12.symm, h13.symm, h23.symm]

/-- R56: a byte that is no selector names no channel. -/
theorem selectorChannel_of_unmapped {p : Params} {g : Byte} (h : g ∉ p.selectors) : selectorChannel p g = none := by
  have hne : g ≠ p.sel1 ∧ g ≠ p.sel2 ∧ g ≠ p.sel3 := by simpa [Params.selectors] using h
  obtain ⟨h1, h2, h3⟩ := hne
  simp only [selectorChannel, h1, h2, h3, if_false]

/-- R55: the number of an operator in `g[7:5]`. -/
def calcNumber : CalcOp → Nat
  | .add => 1
  | .sub => 2
  | .mul => 3
  | .div => 4

theorem calcOperator_of_number {g : Byte} {op : CalcOp} (h : g.toNat / 32 = calcNumber op) :
    calcOperator g = some op := by
  unfold calcOperator
  rw [toNat_shiftRight_five, h]
  cases op <;> rfl

theorem nthChannel_eq_ite (t : Pixel) (n : Nat) :
    nthChannel t n = if n = 1 then t.r else if n = 2 then t.g else t.b := by
  match n with
  | 0 | 1 | 2 => rfl
  | _ + 3 => simp [nthChannel]

/-- R6, R55: a valid channel field names the channel of its number. -/
theorem channelByte_eq_nthChannel {g : Byte} {ch : Channel} (h : calcChannel g = some ch) (t : Pixel) :
    channelByte t ch = nthChannel t (g.toNat % 4) :=
  (channelByte_calcChannel h t).trans (nthChannel_eq_ite t _).symm

/-- R81 with both control fields valid: the result is written, and without one (R82) the failure is taken. -/
theorem exec_calculate_of_valid {s : State} {g b : Byte} (op : CalcOp) (hread : s.readable b = true)
    (hch : g.toNat % 4 ≠ 0) (hop : g.toNat / 32 = calcNumber op) :
    exec (.calculate g b) s =
      (calcResult op (s.reg b) (nthChannel (aheadPixel s) (g.toNat % 4))).elim
        (raiseFailure s.params.codeDivideByZero s) fun res => .next (advanced (wrote s b res)) := by
  obtain ⟨ch, hc⟩ := calcChannel_isSome hch
  simp only [exec, execCalc, calcControl, calcOperator_of_number hop, hc, withReg_of_readable hread,
    lookahead_eq_aheadPixel, channelByte_eq_nthChannel hc, complete_setReg]
  cases calcResult op (s.reg b) (nthChannel (aheadPixel s) (g.toNat % 4)) <;> rfl

/-- R81 with an invalid control field: the register is not even read. -/
theorem exec_calculate_of_invalid {g : Byte} (h : g.toNat % 4 = 0 ∨ g.toNat / 32 = 0 ∨ 5 ≤ g.toNat / 32) (b : Byte)
    (s : State) : exec (.calculate g b) s = raiseFailure s.params.codeInvalidParameter s := by
  simp only [exec, execCalc, calcControl_eq_none h]

theorem calcResult_add (a v : Byte) : calcResult .add a v = some (BitVec.ofNat 8 ((a.toNat + v.toNat) % 256)) :=
  congrArg some (by bv_omega)

/-- R82: the exact difference narrowed modulo 256, computed without a negative number. -/
theorem calcResult_sub (a v : Byte) : calcResult .sub a v = some (BitVec.ofNat 8 ((a.toNat + 256 - v.toNat) % 256)) :=
  congrArg some (by bv_omega)

theorem calcResult_mul (a v : Byte) : calcResult .mul a v = some (BitVec.ofNat 8 (a.toNat * v.toNat % 256)) :=
  congrArg some (BitVec.eq_of_toNat_eq (by simp))

theorem calcResult_div {v : Byte} (hv : v.toNat ≠ 0) (a : Byte) :
    calcResult .div a v = some (BitVec.ofNat 8 (a.toNat / v.toNat)) :=
  if_neg (by bv_omega)

theorem calcResult_div_zero {v : Byte} (hv : v.toNat = 0) (a : Byte) : calcResult .div a v = none :=
  calcResult_eq_none.mpr ⟨rfl, by bv_omega⟩

end Sys2Proof.Machine

namespace Sys2Proof.Claims

open Sys2Proof.Machine

/-- Settles O17: each selector names its channel, and any other byte names none. -/
theorem setvarCopiesLookaheadChannel : Obligations.SetvarCopiesLookaheadChannel := by
  unfold Obligations.SetvarCopiesLookaheadChannel
  intro s g b hp
  obtain ⟨h1, h2, h3⟩ := selectorChannel_sel hp
  refine ⟨decodeOfEncodeIsTheInstruction s.params hp (.setvar g b), ?_, ?_, ?_, fun hg => ?_⟩
  · rintro rfl
    exact exec_setvar_of_channel h1 b
  · rintro rfl
    exact exec_setvar_of_channel h2 b
  · rintro rfl
    exact exec_setvar_of_channel h3 b
  · rw [exec_setvar_of_unmapped (selectorChannel_of_unmapped hg)]
    exact takesFailure_raiseFailure s _

/-- Settles O18: the control byte fixes the operator and the channel, and the operator's result decides the rest. -/
theorem calculateComputesModulo256 : Obligations.CalculateComputesModulo256 := by
  unfold Obligations.CalculateComputesModulo256
  intro s g b hp ch op v a
  refine ⟨decodeOfEncodeIsTheInstruction s.params hp (.calculate g b), fun hbad => ?_, fun hread hch => ?_⟩
  · rw [exec_calculate_of_invalid hbad]
    exact takesFailure_raiseFailure s _
  · refine ⟨fun hop => ?_, fun hop => ?_, fun hop => ?_, fun hop hv => ?_, fun hop hv => ?_⟩
    · rw [exec_calculate_of_valid .add hread hch hop, calcResult_add, Option.elim_some]
    · rw [exec_calculate_of_valid .sub hread hch hop, calcResult_sub, Option.elim_some]
    · rw [exec_calculate_of_valid .mul hread hch hop, calcResult_mul, Option.elim_some]
    · rw [exec_calculate_of_valid .div hread hch hop, calcResult_div hv, Option.elim_some]
    · rw [exec_calculate_of_valid .div hread hch hop, calcResult_div_zero hv, Option.elim_none]
      exact takesFailure_raiseFailure s _

end Sys2Proof.Claims

/-! Proofs: the function instructions, DEFFN, CALL and RET (R90 to R93), in the terms of the statements. -/

namespace Sys2Proof.Machine

open Sys2Proof.Claims

/-- R74: the end of a step is the advance, with R32's formula for the Location ahead. -/
theorem complete_eq_advanced (s : State) : complete s = .next (advanced s) := by
  rw [complete, advance, nextLoc_eq_aheadLoc]
  rfl

/-- R32: the Location ahead depends on the dimensions and the direction only. -/
theorem aheadLoc_congr {s t : State} (hw : s.width = t.width) (hh : s.height = t.height) (hd : s.dir = t.dir)
    (L : Loc) : aheadLoc s L = aheadLoc t L := by
  simp only [aheadLoc, hw, hh, hd]

/-- D7: with room for one more entry the stack is not full. -/
theorem State.stackFull_of_hasRoom {s : State} (h : HasRoom s) : s.stackFull = false := by
  refine Bool.eq_false_iff.mpr fun hfull => ?_
  obtain ⟨n, hlimit, hdepth⟩ := State.stackFull_iff.mp hfull
  exact absurd (h n hlimit) (Nat.not_lt.mpr hdepth)

/-- R90, whole. -/
theorem exec_deffn (g b : Byte) (s : State) :
    exec (.deffn g b) s = .next (advanced (s.setFn b ⟨s.pc, g⟩)) :=
  complete_eq_advanced _

/-- R91 with the slot unbound: the argument is not even read. -/
theorem exec_call_of_unbound {s : State} {b : Byte} (hfn : s.fn b = none) (g : Byte) :
    exec (.call g b) s = raiseFailure s.params.codeFunctionUndefined s := by
  simp only [exec, execCall, hfn]

/-- R91 with the slot bound, the argument readable and room on the stack, as the whole next state. -/
theorem exec_call_of_hasRoom {s : State} {g b : Byte} {f : FnSlot} (hfn : s.fn b = some f)
    (hread : s.readable g = true) (hroom : HasRoom s) :
    exec (.call g b) s =
      .next { wrote s f.var (s.reg g) with stack := s.pc :: s.stack, pc := aheadLoc s f.loc } := by
  have hfull : ¬ s.stackFull = true := Bool.eq_false_iff.mp (State.stackFull_of_hasRoom hroom)
  rw [exec_call_of_bound hfn hread, if_neg hfull, complete_eq_advanced]
  rfl

/-- R92 with no Call open. -/
theorem exec_ret_of_empty {s : State} (h : s.stack = []) :
    exec .ret s = raiseFailure s.params.codeNoFunctionCalled s := by
  simp only [exec, execRet, h]

/-- R92 with a Call open, as the whole next state. -/
theorem exec_ret_of_cons {s : State} {L : Loc} {rest : List Loc} (h : s.stack = L :: rest) :
    exec .ret s = .next { s with stack := rest, pc := aheadLoc s L } := by
  simp only [exec, execRet, h, complete_eq_advanced]
  rfl

end Sys2Proof.Machine

namespace Sys2Proof.Claims

open Sys2Proof.Machine

/-- Settles O31: the Call leaves its own Location on top of the stack, and a Return from such a stack advances from
there. -/
theorem callThenReturnComesBack : Obligations.CallThenReturnComesBack := by
  unfold Obligations.CallThenReturnComesBack
  intro s g b f hfn hread hroom
  have harg : (s.setReg f.var (s.reg g)).reg f.var = s.reg g := by rw [State.reg_setReg, if_pos rfl]
  refine ⟨_, exec_call_of_hasRoom hfn hread hroom, harg, rfl, fun u hu => ?_⟩
  have hret := exec_ret_of_cons (s := u) (L := s.pc) (rest := s.stack) hu
  exact ⟨_, hret, rfl, rfl, fun hw hh hd => aheadLoc_congr hw hh hd s.pc⟩

/-- Settles O19: the slot written reads back as bound, and every other slot as before. -/
theorem deffnBindsTheSlot : Obligations.DeffnBindsTheSlot := by
  unfold Obligations.DeffnBindsTheSlot
  intro s g b hp
  have hfn (j : Byte) : (advanced (s.setFn b ⟨s.pc, g⟩)).fn j = if b = j then some ⟨s.pc, g⟩ else s.fn j :=
    State.fn_setFn s b ⟨s.pc, g⟩ j
  refine ⟨decodeOfEncodeIsTheInstruction s.params hp (.deffn g b), _, exec_deffn g b s, rfl, ?_, fun j hj => ?_⟩
  · rw [hfn, if_pos rfl]
  · rw [hfn, if_neg hj.symm]

/-- Settles O20: the slot decides between the failure and the jump. -/
theorem callPassesPushesAndJumps : Obligations.CallPassesPushesAndJumps := by
  unfold Obligations.CallPassesPushesAndJumps
  intro s g b hp
  refine ⟨decodeOfEncodeIsTheInstruction s.params hp (.call g b), fun hfn => ?_, fun f => exec_call_of_hasRoom⟩
  rw [exec_call_of_unbound hfn]
  exact takesFailure_raiseFailure s _

/-- Settles O22: the two shapes of the stack. Encoding writes 0 into a Return's operand bytes, so with any `g` and `b` it
is the table of arms, not the round trip, that says what the cell decodes to. -/
theorem returnPopsTheStack : Obligations.ReturnPopsTheStack := by
  unfold Obligations.ReturnPopsTheStack
  intro s g b hp
  refine ⟨decode_of_mem_decodeArms hp (by simp [decodeArms]), fun hst => ?_, fun L rest => exec_ret_of_cons⟩
  rw [exec_ret_of_empty hst]
  exact takesFailure_raiseFailure s _

end Sys2Proof.Claims

/-! Proofs: the control instructions, HALT, BRANCH and NOP (R100 to R102), in the terms of the statements. -/

namespace Sys2Proof.Machine

open Sys2Proof.Claims

/-- R101: the condition of a taken Branch is the equality of the two bytes. -/
theorem branchTaken_iff {u v : Byte} : branchTaken u v = true ↔ u = v := beq_iff_eq

/-- R100, whole: the mode takes no part in the advance. -/
theorem exec_halt (s : State) : exec .halt s = .next { advanced s with mode := .halted } :=
  complete_eq_advanced (s.setMode .halted)

/-- R102, whole. -/
theorem exec_nop (s : State) : exec .nop s = .next (advanced s) := complete_eq_advanced s

/-- R101 with both registers readable: equality alone decides the direction along which the step advances. -/
theorem exec_branch_of_readable {s : State} {g b : Byte} (hg : s.readable g = true) (hb : s.readable b = true) :
    exec (.branch g b) s =
      .next (advanced (if s.reg g = s.reg b then s.setDir s.dir.rotate else s)) := by
  simp only [exec, execBranch, withReg_of_readable hg, withReg_of_readable hb, complete_eq_advanced, branchTaken_iff]

end Sys2Proof.Machine

namespace Sys2Proof.Claims

open Sys2Proof.Machine

/-- Settles O24: the two cases of the comparison; the new direction is the rotated one. -/
theorem branchRotatesOnEqualRegisters : Obligations.BranchRotatesOnEqualRegisters := by
  unfold Obligations.BranchRotatesOnEqualRegisters
  intro s g b hp
  refine ⟨decodeOfEncodeIsTheInstruction s.params hp (.branch g b), fun hg hb => ⟨fun heq => ?_, fun hne => ?_⟩⟩
  · obtain ⟨hdx, hdy⟩ := s.dir.rotate_components
    refine ⟨s.dir.rotate, hdx, hdy, ?_⟩
    rw [exec_branch_of_readable hg hb, if_pos heq]
    rfl
  · rw [exec_branch_of_readable hg hb, if_neg hne]

/-- Settles O23: the halted state is no longer Running, so a step keeps it. -/
theorem haltStopsAfterTheAdvance : Obligations.HaltStopsAfterTheAdvance := by
  unfold Obligations.HaltStopsAfterTheAdvance
  intro s g b hp
  have hmode : Mode.halted ≠ .running := by decide
  exact ⟨decode_of_mem_decodeArms hp (by simp [decodeArms]), exec_halt s, step_of_not_running hmode⟩

/-- Settles O25: the decoded instruction is the same for all operand bytes, and it ends the step at once. -/
theorem nopOnlyAdvances : Obligations.NopOnlyAdvances := by
  unfold Obligations.NopOnlyAdvances
  intro s g b hp
  exact ⟨decode_of_mem_decodeArms hp (by simp [decodeArms]), exec_nop s⟩

end Sys2Proof.Claims

/-! Proofs: the try-handler instructions, DEFTRY and THROW (R110, R111), in the terms of the statements. -/

namespace Sys2Proof.Machine

open Sys2Proof.Claims

/-- R110, whole: the handler armed takes the place of any pending one and has no part in the advance. -/
theorem exec_deftry (b : Byte) (s : State) :
    exec (.deftry b) s = .next (advanced (s.setTry (some ⟨s.pc, b⟩))) :=
  complete_eq_advanced _

/-- R111 with the register readable: its value in the state before the failure is the code. -/
theorem exec_throw_of_readable {s : State} {g : Byte} (hread : s.readable g = true) :
    exec (.throw g) s = raiseFailure (s.reg g) s := by
  simp only [exec, execThrow, withReg_of_readable hread]

end Sys2Proof.Machine

namespace Sys2Proof.Claims

open Sys2Proof.Machine

/-- Settles O26: the cell's `g` takes no part in decoding, and the latch set is the whole effect before the advance. -/
theorem deftryArmsTheLatch : Obligations.DeftryArmsTheLatch := by
  unfold Obligations.DeftryArmsTheLatch
  intro s g b hp
  exact ⟨decode_of_mem_decodeArms hp (by simp [decodeArms]), exec_deftry b s⟩

/-- Settles O27: with the register read, the execution is the failure itself, recovered or fatal as any other. -/
theorem throwRaisesTheRegister : Obligations.ThrowRaisesTheRegister := by
  unfold Obligations.ThrowRaisesTheRegister
  intro s g b hp
  refine ⟨decode_of_mem_decodeArms hp (by simp [decodeArms]), fun hread => ?_⟩
  rw [exec_throw_of_readable hread]
  exact takesFailure_raiseFailure s _

end Sys2Proof.Claims

/-! Proofs: the character instructions, IN and OUT (R120, R121), in the terms of the statements. -/

namespace Sys2Proof.Machine

open Sys2Proof.Claims

/-- R18: past the end of `INPUT` there is no next byte. -/
theorem State.inPeek_eq_none {s : State} : s.inPeek = none ↔ s.input.length ≤ s.icur :=
  List.getElem?_eq_none_iff

/-- R120 with a byte left in the input: the cursor moves and the register is written. -/
theorem exec_input_of_some {s : State} {c : Byte} (h : s.inPeek = some c) (b : Byte) :
    exec (.input b) s = .next (advanced (wrote s.bumpInput b c)) := by
  simp only [exec, execInput, h, complete_setReg]

/-- R120 with the input exhausted: the failure is raised in the unchanged state. -/
theorem exec_input_of_exhausted {s : State} (h : s.inPeek = none) (b : Byte) :
    exec (.input b) s = raiseFailure s.params.codeInputStreamEmpty s := by
  simp only [exec, execInput, h]

/-- R121 with the register readable and a code that OUT accepts. -/
theorem exec_output_of_printable {s : State} {b : Byte} (hread : s.readable b = true)
    (hok : printable (s.reg b) = true) : exec (.output b) s = .next (advanced (s.outAppend (s.reg b))) := by
  simp only [exec, execOutput, withReg_of_readable hread, if_pos hok, complete_eq_advanced]

/-- R121 with the register readable and any other code: nothing is appended before the failure. -/
theorem exec_output_of_not_printable {s : State} {b : Byte} (hread : s.readable b = true)
    (hbad : ¬ printable (s.reg b) = true) : exec (.output b) s = raiseFailure s.params.codeOutputNonAscii s := by
  simp only [exec, execOutput, withReg_of_readable hread, if_neg hbad]

end Sys2Proof.Machine

namespace Sys2Proof.Claims

open Sys2Proof.Machine

/-- Settles O28: the input cursor is inside the input, where a byte is delivered, or at its end. -/
theorem inputReadsTheNextByte : Obligations.InputReadsTheNextByte := by
  unfold Obligations.InputReadsTheNextByte
  intro s g b hp
  refine ⟨decode_of_mem_decodeArms hp (by simp [decodeArms]), fun hlt => ?_, fun hend => ?_⟩
  · exact exec_input_of_some (State.inPeek_eq_some.mpr ⟨hlt, rfl⟩) b
  · rw [exec_input_of_exhausted (State.inPeek_eq_none.mpr hend)]
    exact takesFailure_raiseFailure s _

/-- Settles O29: the two bounds are the test that OUT makes, and a code outside them fails it. -/
theorem outputAppendsPrintableBytes : Obligations.OutputAppendsPrintableBytes := by
  unfold Obligations.OutputAppendsPrintableBytes
  intro s g b hp
  refine ⟨decode_of_mem_decodeArms hp (by simp [decodeArms]), fun hread => ⟨fun hlo hhi => ?_, fun hout => ?_⟩⟩
  · exact exec_output_of_printable hread (printable_iff.mpr ⟨hlo, hhi⟩)
  · have hbad : ¬ printable (s.reg b) = true := by
      rw [printable_iff]
      omega
    rw [exec_output_of_not_printable hread hbad]
    exact takesFailure_raiseFailure s _

end Sys2Proof.Claims

/-! Proofs: failures, and the modes in which a core does nothing (R130 to R135, R144). -/

namespace Sys2Proof.Machine

open Sys2Proof.Claims

/-- A state that a step leaves as it is stays as it is for any number of steps. -/
theorem run_of_step_self {M : Host.Core} {s : M.State} (h : M.step s = .next s) (n : Nat) : M.run n s = .next s := by
  induction n with
  | zero => rfl
  | succ n ih => simp only [Host.Core.run, h, ih]

/-- R111: a Throw of a register that holds `c` raises `c`. -/
theorem exec_throw_of_code {s : State} {r c : Byte} (hread : s.readable r = true) (hcode : s.reg r = c) :
    exec (.throw r) s = raiseFailure c s :=
  hcode ▸ exec_throw_of_readable hread

/-- R81, R82: a division by a channel byte of 0 raises DivideByZero. -/
theorem exec_calculate_of_div_zero {s : State} {g b : Byte} (hread : s.readable b = true) (hop : g.toNat / 32 = 4)
    (hch : g.toNat % 4 ≠ 0) (hv : nthChannel (aheadPixel s) (g.toNat % 4) = 0) :
    exec (.calculate g b) s = raiseFailure s.params.codeDivideByZero s := by
  have hres : calcResult .div (s.reg b) (nthChannel (aheadPixel s) (g.toNat % 4)) = none :=
    calcResult_eq_none.mpr ⟨rfl, hv⟩
  rw [exec_calculate_of_valid .div hread hch hop, hres, Option.elim_none]

end Sys2Proof.Machine

namespace Sys2Proof.Claims

open Sys2Proof.Machine

/-- Settles O9: a step of a core that is not running changes nothing (R70), so no number of steps does. -/
theorem nonRunningCoreStaysAsItIs : Obligations.NonRunningCoreStaysAsItIs := by
  unfold Obligations.NonRunningCoreStaysAsItIs
  intro n s hm
  exact run_of_step_self (M := Sys2Proof.core) (step_of_not_running hm) n

/-- Settles O16: the Throw raises its register's code, and each built-in failure is the raising of the same code in the
same state. -/
theorem throwIsLikeTheBuiltInFailure : Obligations.ThrowIsLikeTheBuiltInFailure := by
  unfold Obligations.ThrowIsLikeTheBuiltInFailure
  intro s g b r hr hb
  refine ⟨fun hc hg => ?_, fun hc hop hch hv => ?_, fun hc hin => ?_, fun hc hout => ?_, fun hc hfn => ?_,
    fun hc => ?_, fun hc hst => ?_⟩
  · rw [exec_throw_of_code hr hc, exec_setvar_of_unmapped (selectorChannel_of_unmapped hg)]
  · rw [exec_throw_of_code hr hc, exec_calculate_of_div_zero hb hop hch hv]
  · rw [exec_throw_of_code hr hc, exec_input_of_exhausted (State.inPeek_eq_none.mpr hin)]
  · have hbad : ¬ printable (s.reg b) = true := by
      rw [printable_iff]
      omega
    rw [exec_throw_of_code hr hc, exec_output_of_not_printable hb hbad]
  · rw [exec_throw_of_code hr hc, exec_call_of_unbound hfn]
  · rw [exec_throw_of_code hr hc, execInvalid]
  · rw [exec_throw_of_code hr hc, exec_ret_of_empty hst]

/-- Settles O13: the handler's branch of R131, then the advance. -/
theorem recoveryJumpsWritesAndDisarms : Obligations.RecoveryJumpsWritesAndDisarms := by
  unfold Obligations.RecoveryJumpsWritesAndDisarms
  intro s c h hl
  rw [raiseFailure_some hl, advance_recover]

/-- Settles O14: the branch of R131 without a handler. -/
theorem fatalFailureChangesOnlyModeAndFault : Obligations.FatalFailureChangesOnlyModeAndFault := by
  unfold Obligations.FatalFailureChangesOnlyModeAndFault
  exact fun s c hl => raiseFailure_none hl c

/-- Settles O15: the recovery empties the latch, and with an empty latch a failure is fatal. -/
theorem handlerIsSingleShot : Obligations.HandlerIsSingleShot := by
  unfold Obligations.HandlerIsSingleShot
  intro s c h hl
  refine ⟨recovered s c h, recoveryJumpsWritesAndDisarms s c h hl, rfl, fun u hu c' => ?_⟩
  exact fatalFailureChangesOnlyModeAndFault u c' hu

end Sys2Proof.Claims

/-! Proofs: the run-state machine (R153, R133). -/

namespace Sys2Proof.Machine

open Sys2Proof.Claims

/-- R20: of all effects only Halt's sets the run state. -/
theorem Effect.mode_cases {s u : State} {i : Instr} (he : Effect s i u) :
    (i = .halt ∧ u.mode = .halted) ∨ u.mode = s.mode := by
  cases he with
  | halt => exact .inl ⟨rfl, rfl⟩
  | _ => exact .inr rfl

/-- R21: no effect sets the fault status; only a fatal failure does. -/
theorem Effect.fault_eq {s u : State} {i : Instr} (he : Effect s i u) : u.fault = s.fault := by
  cases he <;> rfl

/-- R100 for a whole step. -/
theorem step_of_atInstr_halt {s : State} (h : AtInstr s .halt) :
    step s = .next { advanced s with mode := .halted } := by
  obtain ⟨hm, c, hc, hi⟩ := h
  rw [step_of_fetch hm hc hi, exec_halt]

/-- R153: the transitions out of Running by a step: it runs on, it halts at a Halt, or it fails with no handler
pending (R133). -/
theorem step_of_running_cases {s t : State} (h : step s = .next t) (hm : s.mode = .running) :
    (t.mode = .running ∧ t.fault = s.fault) ∨ (t.mode = .halted ∧ t.fault = s.fault ∧ AtInstr s .halt) ∨
      (s.tryLatch = none ∧ ∃ c, t = failedWith s c) := by
  cases stepTo_of_step h with
  | stay hidle => exact absurd hm hidle
  | effect i u hi he =>
    rcases he.mode_cases with ⟨rfl, hu⟩ | hu
    · exact .inr (.inl ⟨hu, he.fault_eq, hi⟩)
    · exact .inl ⟨hu.trans hm, he.fault_eq⟩
  | recovery c hd _ hl => exact .inl ⟨hm, rfl⟩
  | fatal c _ hl => exact .inr (.inr ⟨hl, c, rfl⟩)

end Sys2Proof.Machine

namespace Sys2Proof.Claims

open Sys2Proof.Machine

/-- A step halts exactly at a Halt (R100): at one it has no other end, and no other transition reaches Halted. -/
theorem endedNormally_iff_atInstr_halt {s t : State} (h : step s = .next t) (hm : s.mode = .running) :
    t.endedNormally ↔ AtInstr s .halt := by
  refine ⟨fun hend => ?_, fun hat => ?_⟩
  · rcases step_of_running_cases h hm with ⟨hrun, -⟩ | ⟨-, -, hat⟩ | ⟨-, c, rfl⟩
    · exact absurd (hrun.symm.trans hend) (by decide)
    · exact hat
    · cases hend
  · rw [step_of_atInstr_halt hat] at h
    cases h
    rfl

/-- Settles O41: the transitions of the host's commands and the three ways out of Running. -/
theorem runStateTransitions : Obligations.RunStateTransitions := by
  unfold Obligations.RunStateTransitions
  refine ⟨fun s => ⟨hostReset_mode s, hostRun_mode s⟩, fun s t h hm => ?_, fun s t h hm => ?_⟩
  · rw [step_of_not_running hm] at h
    cases h
    rfl
  · refine ⟨?_, endedNormally_iff_atInstr_halt h hm, ?_⟩
    · rcases step_of_running_cases h hm with ⟨hrun, -⟩ | ⟨hhalt, -⟩ | ⟨-, c, rfl⟩
      · simp [hrun]
      · simp [hhalt]
      · simp [failedWith]
    · rcases step_of_running_cases h hm with ⟨hrun, hf⟩ | ⟨hhalt, hf, -⟩ | ⟨hl, hfail⟩
      · exact ⟨fun hend => absurd (hrun.symm.trans hend) (by decide), fun _ => hf⟩
      · exact ⟨fun hend => absurd (hhalt.symm.trans hend) (by decide), fun _ => hf⟩
      · refine ⟨fun _ => ⟨hl, hfail⟩, fun hend => ?_⟩
        obtain ⟨c, rfl⟩ := hfail
        exact absurd rfl hend

end Sys2Proof.Claims

/-! Proofs: reset and run (R150, R151). -/

namespace Sys2Proof.Machine

/-- R10: after reset no register counts as written. -/
@[simp] theorem State.wasWritten_initial (p : Params) (w h : Nat) (m : Memory) (inp : List Byte) (j : Byte) :
    (State.initial p w h m inp).wasWritten j = false := by
  simp [State.wasWritten, State.initial]

/-- R150: the reset state depends on the construction data alone. -/
theorem hostReset_congr {s t : State} (h : t.construction = s.construction) : hostReset t = hostReset s := by
  simp only [State.construction, Prod.mk.injEq] at h
  obtain ⟨hp, hw, hh, hm, hi⟩ := h
  simp only [hostReset, hp, hw, hh, hm, hi]

/-- R151: the first fetch after `run()` reads cell (0,0). -/
theorem fetch_hostRun {s : State} (hw : 0 < s.width) (hh : 0 < s.height) :
    fetch (hostRun s) = some (pixelAt s ⟨0, 0⟩) := by
  rw [fetch_pixelAt (s := hostRun s) ⟨hw, hh⟩, hostRun_pc, pixelAt_congr (hostRun_width s) (hostRun_mem s)]

end Sys2Proof.Machine

namespace Sys2Proof.Claims

open Sys2Proof.Machine

/-- Settles O44: no command changes the construction data, which is all that the reset state depends on. -/
theorem runAndResetForgetTheHistory : Obligations.RunAndResetForgetTheHistory := by
  unfold Obligations.RunAndResetForgetTheHistory
  refine ⟨fun cs s t h => ?_, fun _ => rfl, fun _ => fetch_hostRun⟩
  have hreset : hostReset t = hostReset s := hostReset_congr (commands_construction h)
  exact ⟨hreset, congrArg (State.setMode · .running) hreset⟩

/-- Settles O43: the tables entry by entry; every other field by its own law of `hostReset`. -/
theorem resetPutsEveryFieldAtItsResetValue : Obligations.ResetPutsEveryFieldAtItsResetValue := by
  unfold Obligations.ResetPutsEveryFieldAtItsResetValue
  intro s
  have hregs (i : Byte) : (hostReset s).reg i = 0 := State.reg_initial _ _ _ _ _ i
  have hfns (i : Byte) : (hostReset s).fn i = none := State.fn_initial _ _ _ _ _ i
  have hwritten (i : Byte) : (hostReset s).wasWritten i = false := State.wasWritten_initial _ _ _ _ _ i
  refine ⟨hregs, hfns, hwritten, ?_⟩
  simp [Dir.dx, Dir.dy]

end Sys2Proof.Claims

/-! Proofs: `construct` (R152), one equation per outcome. -/

namespace Sys2Proof

/-- D8: a grid has at least one column and one row. -/
theorem dimensionsOk_iff {w h : Nat} : dimensionsOk w h = true ↔ 1 ≤ w ∧ 1 ≤ h := by
  simp [dimensionsOk]

/-- D6: every input element is a byte. -/
theorem inputOk_iff {input : List Nat} : inputOk input = true ↔ ∀ n ∈ input, n ≤ 255 := by
  simp [inputOk]

/-- D6: narrowing input elements that are bytes loses nothing. -/
theorem map_toNat_map_ofNat {input : List Nat} (h : inputOk input = true) :
    (input.map (BitVec.ofNat 8)).map BitVec.toNat = input := by
  have hbyte : ∀ n ∈ input, (BitVec.ofNat 8 n).toNat = n := fun n hn =>
    Nat.mod_eq_of_lt (Nat.lt_succ_of_le (inputOk_iff.mp h n hn))
  rw [List.map_map]
  exact (List.map_congr_left hbyte).trans (List.map_id' input)

end Sys2Proof

namespace Sys2Proof.Machine

section Construct

variable {p : Params} {w h : Nat} {input : List Nat} (grid : Nat → Nat → Pixel)

/-- R152: with sound arguments the machine starts in its reset state. -/
theorem construct_of_ok (hp : p.wf = true) (hd : dimensionsOk w h = true) (hi : inputOk input = true) :
    construct p w h grid input =
      .next (State.initial p w h (Memory.ofGrid w h grid) (input.map (BitVec.ofNat 8))) := by
  simp [construct, hp, hd, hi]

/-- Log 11: the parameters are checked first, whatever the other arguments are. -/
theorem construct_of_bad_parameters (hp : p.wf = false) :
    construct p w h grid input = .refused .badParameters := by
  simp [construct, hp]

/-- D8, R152: the dimensions are checked before the input. -/
theorem construct_of_bad_dimensions (hp : p.wf = true) (hd : dimensionsOk w h = false) :
    construct p w h grid input = .refused .badDimensions := by
  simp [construct, hp, hd]

/-- D6, R152. -/
theorem construct_of_wide_input (hp : p.wf = true) (hd : dimensionsOk w h = true) (hi : inputOk input = false) :
    construct p w h grid input = .refused .inputNotBytes := by
  simp [construct, hp, hd, hi]

end Construct

end Sys2Proof.Machine

namespace Sys2Proof.Claims

open Sys2Proof.Machine

/-- Settles O45: the constructed state is a reset state, and its store gives back the cells it was built from. -/
theorem constructGivesTheSuppliedGrid : Obligations.ConstructGivesTheSuppliedGrid := by
  unfold Obligations.ConstructGivesTheSuppliedGrid
  intro p w h grid input hp hw hh hin
  have hi : inputOk input = true := inputOk_iff.mpr hin
  refine ⟨_, construct_of_ok grid hp (dimensionsOk_iff.mpr ⟨hw, hh⟩) hi, rfl, rfl, rfl, rfl, rfl,
    map_toNat_map_ofNat hi, fun x y hx hy => ?_⟩
  exact pixelAt_ofGrid (grid := grid) rfl ⟨hx, hy⟩

/-- Settles O46: the three checks, in the order of `construct`. -/
theorem constructRefusesWhatTheSpecExcludes : Obligations.ConstructRefusesWhatTheSpecExcludes := by
  unfold Obligations.ConstructRefusesWhatTheSpecExcludes
  intro p w h grid input
  refine ⟨construct_of_bad_parameters grid, fun hp hempty => ?_, fun hp hw hh ⟨n, hn, hwide⟩ => ?_⟩
  · have hd : dimensionsOk w h = false := Bool.eq_false_iff.mpr fun hok => by
      obtain ⟨hw, hh⟩ := dimensionsOk_iff.mp hok
      omega
    exact construct_of_bad_dimensions grid hp hd
  · have hi : inputOk input = false := Bool.eq_false_iff.mpr fun hok =>
      absurd (inputOk_iff.mp hok n hn) (Nat.not_le.mpr hwide)
    exact construct_of_wide_input grid hp (dimensionsOk_iff.mpr ⟨hw, hh⟩) hi

end Sys2Proof.Claims
